-- ==== Sys2Proof/Word.lean ====
section
/-! DEFINITION. The word types: a command or a register moves as 16 bits, a buffer moves by the byte
(00_scope.md R9, 20_memory.md R60). -/

namespace Sys2Proof

/-- A 16-bit word: a command word (30_encoding.md R80) or a whole register as the host sees it (20_memory.md R62). -/
abbrev Word := BitVec 16

/-- A byte, an unsigned integer 0 to 255 (00_scope.md R9). -/
abbrev Byte := BitVec 8

/-- `ceil(a/b)` of 00_scope.md R9: `(a + b - 1) div b` on the natural numbers. -/
def ceilDiv (a b : Nat) : Nat := (a + b - 1) / b

end Sys2Proof
end

