-- ==== Sys2Proof/Syntax.lean ====
section
/-! DEFINITION. The nine commands (30_encoding.md R81), the fields of a command word (R80), the named registers and
buffers, and the four host transactions with their responses (00_scope.md R12, 20_memory.md R62 to R66). -/

namespace Sys2Proof

/-- The commands, one constructor per row of the opcode table (30_encoding.md R81). No command has an operand: every
operand is an implicit named register or buffer (R82). -/
inductive Instr where
  /-- NOP, 43_control.md R190 -/
  | nop
  /-- CLR, 43_control.md R191 -/
  | clr
  /-- FRAME, 40_framer.md R103 -/
  | frame
  /-- FRAME.CFG, 40_framer.md R104 -/
  | frameCfg
  /-- FRAME.BAT, 40_framer.md R105 -/
  | frameBat
  /-- DEC.CFG, 41_decoder.md R126 -/
  | decCfg
  /-- DEC.BAT, 41_decoder.md R127 -/
  | decBat
  /-- ENC1, 42_raster.md R163 -/
  | enc1
  /-- ENC2, 42_raster.md R164 -/
  | enc2
  deriving DecidableEq, Repr

/-- The three fields of a command word: `unit` 15:12, `func` 11:8, `arg` 7:0 (30_encoding.md R80). -/
structure CommandFields where
  unit : BitVec 4
  func : BitVec 4
  arg  : BitVec 8
  deriving DecidableEq, Repr

/-- The 27 registers, in the order of their numbers (10_state.md R21). -/
inductive Reg where
  | cmd | status | imgW | imgH | padLen | padByte | packLen | rasLen | rawLen | pfxLen | expLen | payLen
  | dpi | hwMaj | hwMin | hwPat | fwMaj | fwMin | fwPat | tmoRaw | tmoMin | beepRaw | beep
  | batRaw | batPct | chgRaw | chg
  deriving DecidableEq, Repr

/-- The five byte buffers (10_state.md R30). -/
inductive Buf where
  | pix | ras | raw | pfx | pay
  deriving DecidableEq, Repr

/-- The four host transactions (00_scope.md R12). Register numbers, buffer ids and indices are non-negative integers,
so that a transaction on a place that does not exist can be written (20_memory.md R66). -/
inductive HostTxn where
  /-- RegRead(n), 20_memory.md R62 -/
  | regRead  (n : Nat)
  /-- RegWrite(n, v), 20_memory.md R63 -/
  | regWrite (n : Nat) (v : Word)
  /-- BufRead(b, i), 20_memory.md R64 -/
  | bufRead  (b i : Nat)
  /-- BufWrite(b, i, v), 20_memory.md R65 -/
  | bufWrite (b i : Nat) (v : Byte)
  deriving DecidableEq, Repr

/-- What a transaction returns to the host (20_memory.md R62 to R66). -/
inductive Response where
  /-- `ok` of a write -/
  | ok
  /-- `(ok, v)` of a RegRead -/
  | okWord (v : Word)
  /-- `(ok, v)` of a BufRead -/
  | okByte (v : Byte)
  /-- `accerr`: the transaction was refused and changed nothing (R66) -/
  | accerr
  deriving DecidableEq, Repr

/-- The error codes of 60_exceptions.md R201. -/
inductive ErrorCode where
  | noError | badPrefix | badLength | lengthMismatch | oversize | illegalCommand | badConfig
  deriving DecidableEq, Repr

/-- A three-valued boolean (10_state.md R33). -/
inductive Bool3 where
  | isFalse | isTrue | unknown
  deriving DecidableEq, Repr

/-- What a command writes and an error of it invalidates: the rows of 60_exceptions.md R206. -/
inductive OutputGroup where
  /-- FRAME, FRAME.CFG, FRAME.BAT -/
  | payload
  /-- DEC.CFG -/
  | config
  /-- DEC.BAT -/
  | battery
  /-- ENC1, ENC2 -/
  | raster
  /-- an illegal word: nothing more -/
  | nothing
  deriving DecidableEq, Repr

end Sys2Proof
end

