-- ==== Sys2Proof/Config.lean ====
section
/-! DEFINITION. What an implementation fixes (00_scope.md R6, R7) and the free values, which the spec leaves open
(93_implementation_defined.md U1 to U4). -/

namespace Sys2Proof.Config

/-- RASTER_LEN, the reset value of PAD_LEN (00_scope.md R6). -/
abbrev rasterLen : Nat := 3408

/-- PAD_WHITE, the reset value of PAD_BYTE (00_scope.md R6). -/
def padWhite : Byte := 0xFF#8

/-- BOX_W, BOX_H: the box in pixels that the environment scales the image into (00_scope.md R6). The block does not
check a grid against it (42_raster.md R150, R179). -/
abbrev boxW : Nat := 96
@[inherit_doc boxW] abbrev boxH : Nat := 284

/-- ROW_BYTES, ROWS: the raster's width in bytes and height in rows that the environment declares to the printer
(00_scope.md R6). No rule of the block reads them. -/
abbrev rowBytes : Nat := 12
@[inherit_doc rowBytes] abbrev rows : Nat := 284

/-- T1, T2, T3: the thresholds of the 2-bit quantiser (00_scope.md R6). -/
abbrev t1 : Nat := 64
@[inherit_doc t1] abbrev t2 : Nat := 128
@[inherit_doc t1] abbrev t3 : Nat := 192

/-- TERM_LEN: how many bytes the framer strips from the end of a response (00_scope.md R6). -/
abbrev termLen : Nat := 2

/-- CR LF, the two terminator bytes of the protocol (30_encoding.md R84). -/
def terminator : List Byte := [0x0D#8, 0x0A#8]

/-- PFX_CONFIG: `CONFIG ` with its space (00_scope.md R6, 30_encoding.md R85). -/
def pfxConfig : List Byte := [0x43#8, 0x4F#8, 0x4E#8, 0x46#8, 0x49#8, 0x47#8, 0x20#8]

/-- PFX_BATTERY: `BATTERY ` with its space (00_scope.md R6, 30_encoding.md R85). -/
def pfxBattery : List Byte := [0x42#8, 0x41#8, 0x54#8, 0x54#8, 0x45#8, 0x52#8, 0x59#8, 0x20#8]

/-- LEN_CONFIG: width of the config layout (00_scope.md R6). -/
abbrev lenConfig : Nat := 10

/-- LEN_BATTERY: width of the battery layout (00_scope.md R6). -/
abbrev lenBattery : Nat := 2

/-- TMO_TABLE: the timeout byte and the minutes it means (00_scope.md R6). -/
abbrev tmoTable : List (Nat × Nat) := [(0, 0), (1, 15), (2, 30), (3, 60)]

/-- RAS_CAP, the capacity of RAS and the upper bound of a legal PAD_LEN (00_scope.md R7). -/
abbrev rasCap : Nat := 3408

/-- PIX_CAP = 8 × RAS_CAP, one byte per pixel (00_scope.md R7). -/
abbrev pixCap : Nat := 27264

/-- RAW_CAP (00_scope.md R7). -/
abbrev rawCap : Nat := 64

/-- PFX_CAP (00_scope.md R7). -/
abbrev pfxCap : Nat := 16

/-- PAY_CAP = RAW_CAP (00_scope.md R7). -/
abbrev payCap : Nat := 64

/-- DITHER_T, the threshold of the 1-bit mode (00_scope.md R7). -/
abbrev ditherT : Int := 128

/-- FS_W: the shares, in sixteenths, of the right, below-left, below and below-right neighbour (00_scope.md R7). -/
abbrev fsRight : Int := 7
@[inherit_doc fsRight] abbrev fsBelowLeft : Int := 3
@[inherit_doc fsRight] abbrev fsBelow : Int := 5
@[inherit_doc fsRight] abbrev fsBelowRight : Int := 1

/-- FREE VALUE. The byte that draw number `draw` finds at index `index` of buffer number `buffer` when that byte has
no value (10_state.md R31; 93_implementation_defined.md U1, U4: "any value"). No body: nothing can be proved of it.
DESIGN CHOICE, log 4 and log 7. -/
opaque freeByte (draw buffer index : Nat) : Byte

/-- FREE VALUE. What draw number `draw` finds in register number `register` when the register's value is unspecified
(10_state.md R35; 93_implementation_defined.md U2, U3). The user of it takes the low bits that the register has.
No body: nothing can be proved of it. DESIGN CHOICE, log 5, log 6 and log 7. -/
opaque freeRegister (draw register : Nat) : Word

end Sys2Proof.Config
end

