-- ==== Sys2Proof/WellFormed.lean ====
section
/-! DEFINITION. The checks on terms: an instruction (none has an operand), the fields of a command word
(30_encoding.md R80, R83), a host transaction (20_memory.md R66). -/

namespace Sys2Proof

/-- Every command is well formed: no command carries an immediate or a register number (30_encoding.md R82). -/
def Instr.wf : Instr → Bool
  | .nop => true
  | .clr => true
  | .frame => true
  | .frameCfg => true
  | .frameBat => true
  | .decCfg => true
  | .decBat => true
  | .enc1 => true
  | .enc2 => true

/-- `unit` 4 to 15 are reserved (30_encoding.md R80). -/
def CommandFields.unitDefined (f : CommandFields) : Bool := f.unit.toNat < 4

/-- The functions that each unit has (30_encoding.md R83). -/
def CommandFields.funcDefined (f : CommandFields) : Bool :=
  match f.unit.toNat with
  | 0 => f.func.toNat < 2
  | 1 => f.func.toNat < 3
  | 2 => 1 ≤ f.func.toNat && f.func.toNat < 3
  | 3 => 1 ≤ f.func.toNat && f.func.toNat < 3
  | _ => false

/-- `arg` is 0x00 in every defined command (30_encoding.md R80). -/
def CommandFields.argZero (f : CommandFields) : Bool := f.arg == 0#8

/-- The fields of a word of the opcode table (30_encoding.md R83). -/
def CommandFields.wf (f : CommandFields) : Bool := f.unitDefined && f.funcDefined && f.argZero

/-- The register numbers that exist (20_memory.md R72). -/
def regNumberExists (n : Nat) : Bool := n ≤ 0x0B || (0x10 ≤ n && n ≤ 0x1E)

/-- The numbers of the RW registers (10_state.md R21, column Acc). -/
def regNumberWritable (n : Nat) : Bool := [0x00, 0x02, 0x03, 0x04, 0x05, 0x08, 0x09, 0x0A, 0x0B].contains n

/-- The capacity of a buffer id, if the id exists (20_memory.md R72). -/
def capacityOfId : Nat → Option Nat
  | 0 => some Config.pixCap
  | 1 => some Config.rasCap
  | 2 => some Config.rawCap
  | 3 => some Config.pfxCap
  | 4 => some Config.payCap
  | _ => none

/-- The transactions that are not refused (20_memory.md R66). -/
def HostTxn.wf : HostTxn → Bool
  | .regRead n => regNumberExists n
  | .regWrite n _ => regNumberWritable n
  | .bufRead b i => match capacityOfId b with
    | some c => i < c
    | none => false
  | .bufWrite b i _ => b != 1 && match capacityOfId b with
    | some c => i < c
    | none => false

end Sys2Proof
end

