-- ==== Sys2Proof/Decode.lean ====
section
/-! DEFINITION. Decoding a command word, total and rejecting by name (30_encoding.md R80, R81, R83), and the encoder
written from the same table. -/

namespace Sys2Proof

/-- Why a word is no command (30_encoding.md R83). Every one of them is the IllegalCommand of 60_exceptions.md R205;
which name a word with several defects gets is the model's (log 16). -/
inductive DecodeReject where
  /-- `arg` is not 0x00 -/
  | nonzeroArg
  /-- `unit` is 4 to 15 -/
  | reservedUnit
  /-- the unit has no such `func` -/
  | reservedFunc
  deriving DecidableEq, Repr

/-- The fields of a word, bit ranges of 30_encoding.md R80. -/
def fieldsOfWord (w : Word) : CommandFields :=
  { unit := w.extractLsb' 12 4, func := w.extractLsb' 8 4, arg := w.extractLsb' 0 8 }

/-- The word made of three fields (30_encoding.md R80). -/
def wordOfFields (f : CommandFields) : Word := f.unit ++ f.func ++ f.arg

/-- The opcode table read from its fields (30_encoding.md R81). -/
def decodeFields (f : CommandFields) : Except DecodeReject Instr :=
  if f.arg ≠ 0#8 then .error .nonzeroArg
  else match f.unit.toNat, f.func.toNat with
    | 0, 0 => .ok .nop
    | 0, 1 => .ok .clr
    | 1, 0 => .ok .frame
    | 1, 1 => .ok .frameCfg
    | 1, 2 => .ok .frameBat
    | 2, 1 => .ok .decCfg
    | 2, 2 => .ok .decBat
    | 3, 1 => .ok .enc1
    | 3, 2 => .ok .enc2
    | u, _ => if u < 4 then .error .reservedFunc else .error .reservedUnit

/-- Decoding by exact match against the opcode table (30_encoding.md R80, R81). -/
def decode (w : Word) : Except DecodeReject Instr := decodeFields (fieldsOfWord w)

/-- The opcode table read from its mnemonics (30_encoding.md R81). -/
def fieldsOfInstr : Instr → CommandFields
  | .nop      => { unit := 0#4, func := 0#4, arg := 0#8 }
  | .clr      => { unit := 0#4, func := 1#4, arg := 0#8 }
  | .frame    => { unit := 1#4, func := 0#4, arg := 0#8 }
  | .frameCfg => { unit := 1#4, func := 1#4, arg := 0#8 }
  | .frameBat => { unit := 1#4, func := 2#4, arg := 0#8 }
  | .decCfg   => { unit := 2#4, func := 1#4, arg := 0#8 }
  | .decBat   => { unit := 2#4, func := 2#4, arg := 0#8 }
  | .enc1     => { unit := 3#4, func := 1#4, arg := 0#8 }
  | .enc2     => { unit := 3#4, func := 2#4, arg := 0#8 }

/-- The one word of a command (30_encoding.md R80, R81). -/
def encode (i : Instr) : Word := wordOfFields (fieldsOfInstr i)

/-- The low `nbits` bits of `w` as the one word of a command; a number that needs more than 16 bits is no command word
(log 17). -/
def tableWord (nbits w : Nat) : Option Word :=
  if w % 2 ^ nbits < 2 ^ 16 then some (BitVec.ofNat 16 (w % 2 ^ nbits)) else none

/-- The command that the decoder reads from a row of the opcode table whose bits are `w`. -/
def decodeTableWord (nbits w : Nat) : Option Instr :=
  match tableWord nbits w with
  | none => none
  | some word => match decode word with
    | .ok i => some i
    | .error _ => none

end Sys2Proof
end

