-- ==== Sys2Proof/Machine/State.lean ====
section
/-! DEFINITION. The state of the block (10_state.md R20, R21, R30), the model's own fields beside it, the reasons a
step can stop, and the state after reset (10_state.md R39). -/

namespace Sys2Proof.Machine

/-- A byte buffer: the bytes that have a value, by index. Canonical form: indices strictly rising. An index that is
not listed has no value (10_state.md R31; log 4). -/
abbrev Mem := List Host.Cell

/-- The whole state. The block's part is R20: 27 registers (R21) and five buffers (R30). The last four fields are the
model's own (10_state.md R24 for `position`; log 2, log 7, log 10). -/
structure State where
  /-- CMD 0x00 (R22) -/
  cmd      : Word
  /-- STATUS 0x01 (R23); fields in Machine/Flags.lean -/
  status   : Word
  /-- IMG_W 0x02 (R25) -/
  imgW     : Word
  /-- IMG_H 0x03 (R25) -/
  imgH     : Word
  /-- PAD_LEN 0x04 (R26) -/
  padLen   : Word
  /-- PAD_BYTE 0x05 (R26) -/
  padByte  : Byte
  /-- PACK_LEN 0x06 (R29) -/
  packLen  : Word
  /-- RAS_LEN 0x07 (R29) -/
  rasLen   : Word
  /-- RAW_LEN 0x08 (R27) -/
  rawLen   : Word
  /-- PFX_LEN 0x09 (R27) -/
  pfxLen   : Byte
  /-- EXP_LEN 0x0A (R27) -/
  expLen   : Word
  /-- PAY_LEN 0x0B (R28) -/
  payLen   : Word
  /-- DPI 0x10 (R34) -/
  dpi      : Word
  /-- HW_MAJ 0x11 -/
  hwMaj    : Byte
  /-- HW_MIN 0x12 -/
  hwMin    : Byte
  /-- HW_PAT 0x13 -/
  hwPat    : Byte
  /-- FW_MAJ 0x14 -/
  fwMaj    : Byte
  /-- FW_MIN 0x15 -/
  fwMin    : Byte
  /-- FW_PAT 0x16 -/
  fwPat    : Byte
  /-- TMO_RAW 0x17 -/
  tmoRaw   : Byte
  /-- TMO_MIN 0x18 -/
  tmoMin   : Byte
  /-- BEEP_RAW 0x19 -/
  beepRaw  : Byte
  /-- BEEP 0x1A (R33) -/
  beep     : BitVec 2
  /-- BAT_RAW 0x1B -/
  batRaw   : Byte
  /-- BAT_PCT 0x1C -/
  batPct   : Byte
  /-- CHG_RAW 0x1D -/
  chgRaw   : Byte
  /-- CHG 0x1E (R33) -/
  chg      : BitVec 2
  /-- buffer 0 -/
  pix      : Mem
  /-- buffer 1 -/
  ras      : Mem
  /-- buffer 2 -/
  raw      : Mem
  /-- buffer 3 -/
  pfx      : Mem
  /-- buffer 4 -/
  pay      : Mem
  /-- the host's transactions not yet issued, oldest first (the model's own) -/
  pending   : List HostTxn
  /-- the index of R24: how many transactions have been performed (the model's own) -/
  position  : Nat
  /-- what they returned, newest first (the model's own) -/
  responses : List Response
  /-- the counter of free values, moved by accepted writes and by commands, not by reads (the model's own; log 7) -/
  draws     : Nat
  deriving DecidableEq, Repr

/-- Why a step can stop with a fault: never. No error stops the block, locks it, or needs a reset (60_exceptions.md
R209), and a read of an unspecified byte or register is a free value here, the other of the two treatments of
93_implementation_defined.md U1 to U3. Safe: log 4, log 5, log 13. -/
inductive Fault where
  deriving DecidableEq, Repr

/-- Why a step can be refused. -/
inductive Refusal where
  /-- Raised by an arm of `exec` that has no meaning yet; safe. Every command has its meaning, so nothing raises it. -/
  | notModelled (mnemonic : String)
  deriving DecidableEq, Repr

/-- The state right after reset (10_state.md R39, 70_reset_and_hazards.md R230). The fields `dpi` to `chg` are
unspecified at reset: their zeros are the model's DESIGN CHOICE (log 3), and a host read does not see them (log 5). -/
def State.reset : State where
  cmd := 0x0000#16
  status := 0x0000#16
  imgW := 0#16
  imgH := 0#16
  padLen := BitVec.ofNat 16 Config.rasterLen
  padByte := Config.padWhite
  packLen := 0#16
  rasLen := 0#16
  rawLen := 0#16
  pfxLen := 0#8
  expLen := 0#16
  payLen := 0#16
  dpi := 0#16
  hwMaj := 0#8
  hwMin := 0#8
  hwPat := 0#8
  fwMaj := 0#8
  fwMin := 0#8
  fwPat := 0#8
  tmoRaw := 0#8
  tmoMin := 0#8
  beepRaw := 0#8
  beep := 0#2
  batRaw := 0#8
  batPct := 0#8
  chgRaw := 0#8
  chg := 0#2
  pix := []
  ras := []
  raw := []
  pfx := []
  pay := []
  pending := []
  position := 0
  responses := []
  draws := 0

end Sys2Proof.Machine
end

