-- ==== Sys2Proof/Machine/Flags.lean ====
section
/-! DEFINITION. The fields of STATUS (10_state.md R23), the error codes they hold (60_exceptions.md R201), and the
replacement of a field of a bit vector, which packing uses too (42_raster.md R155). -/

namespace Sys2Proof.Machine

/-- `x` with bits `[lo+n-1 : lo]` replaced by `v` (the operation of 42_raster.md R155). -/
def setField {w n : Nat} (x : BitVec w) (lo : Nat) (v : BitVec n) : BitVec w :=
  (x &&& ~~~((BitVec.allOnes n).setWidth w <<< lo)) ||| (v.setWidth w <<< lo)

/-- The code of an error in STATUS.ERR (60_exceptions.md R201). -/
def errorNumber : ErrorCode → BitVec 4
  | .noError => 0#4
  | .badPrefix => 1#4
  | .badLength => 2#4
  | .lengthMismatch => 3#4
  | .oversize => 4#4
  | .illegalCommand => 5#4
  | .badConfig => 6#4

namespace Status

/-- STATUS.OK, bit 0 (10_state.md R23). -/
def ok (w : Word) : Bool := w.getLsbD 0
/-- STATUS.TERMOK, bit 1. -/
def termok (w : Word) : Bool := w.getLsbD 1
/-- STATUS.ERR, bits 7:4. -/
def err (w : Word) : BitVec 4 := w.extractLsb' 4 4
/-- STATUS.CFG_VALID, bit 8. -/
def cfgValid (w : Word) : Bool := w.getLsbD 8
/-- STATUS.BAT_VALID, bit 9. -/
def batValid (w : Word) : Bool := w.getLsbD 9
/-- STATUS.TMO_KNOWN, bit 10. -/
def tmoKnown (w : Word) : Bool := w.getLsbD 10
/-- STATUS.BAT_KNOWN, bit 11. -/
def batKnown (w : Word) : Bool := w.getLsbD 11

/-- STATUS.OK <- b. -/
def setOk (w : Word) (b : Bool) : Word := setField w 0 (BitVec.ofBool b)
/-- STATUS.TERMOK <- b. -/
def setTermok (w : Word) (b : Bool) : Word := setField w 1 (BitVec.ofBool b)
/-- STATUS.ERR <- e. -/
def setErr (w : Word) (e : BitVec 4) : Word := setField w 4 e
/-- STATUS.CFG_VALID <- b. -/
def setCfgValid (w : Word) (b : Bool) : Word := setField w 8 (BitVec.ofBool b)
/-- STATUS.BAT_VALID <- b. -/
def setBatValid (w : Word) (b : Bool) : Word := setField w 9 (BitVec.ofBool b)
/-- STATUS.TMO_KNOWN <- b. -/
def setTmoKnown (w : Word) (b : Bool) : Word := setField w 10 (BitVec.ofBool b)
/-- STATUS.BAT_KNOWN <- b. -/
def setBatKnown (w : Word) (b : Bool) : Word := setField w 11 (BitVec.ofBool b)

/-- STATUS.OK and STATUS.ERR after a command with outcome `e` (10_state.md R36: OK is 1 exactly on no error). -/
def setOutcome (w : Word) (e : ErrorCode) : Word := setErr (setOk w (e == .noError)) (errorNumber e)

end Status

end Sys2Proof.Machine
end

