-- ==== Sys2Proof/Machine/Ops.lean ====
section
/-! DEFINITION. The operations over buffers and registers that the commands and the host transactions share, and
error entry (60_exceptions.md R206), written once. There is no return from an error (R207), so none stands beside it. -/

namespace Sys2Proof.Machine

/-! ### Buffers -/

/-- The byte at index `i`, if it has a value (10_state.md R31; log 4). -/
def Mem.read (m : Mem) (i : Nat) : Option Byte :=
  match m with
  | [] => none
  | (j, v) :: rest => if i = j then some v else Mem.read rest i

/-- Index `i` takes the value `v` and nothing else changes (20_memory.md R65). -/
def Mem.write (m : Mem) (i : Nat) (v : Byte) : Mem :=
  match m with
  | [] => [(i, v)]
  | (j, u) :: rest =>
    if i < j then (i, v) :: (j, u) :: rest
    else if i = j then (i, v) :: rest
    else (j, u) :: Mem.write rest i v

/-- The buffer whose bytes from index `start` on are `bytes`, every other byte without a value. -/
def Mem.ofBytesFrom (start : Nat) (bytes : List Byte) : Mem :=
  match bytes with
  | [] => []
  | b :: rest => (start, b) :: Mem.ofBytesFrom (start + 1) rest

/-- The buffer that holds `bytes` from index 0 and nothing else: what a command leaves in its output buffer
(40_framer.md R103, 42_raster.md R163: bytes beyond become unspecified). -/
def Mem.ofBytes (bytes : List Byte) : Mem := Mem.ofBytesFrom 0 bytes

/-- The canonical form of a buffer of capacity `cap`: indices strictly rising and below the capacity. -/
abbrev Mem.wf (cap : Nat) (m : Mem) : Prop :=
  m.Pairwise (fun a b => a.1 < b.1) ∧ ∀ c ∈ m, c.1 < cap

/-- The contents of a buffer (10_state.md R30). -/
def State.buf (s : State) : Buf → Mem
  | .pix => s.pix
  | .ras => s.ras
  | .raw => s.raw
  | .pfx => s.pfx
  | .pay => s.pay

/-- The state with the contents of one buffer replaced. -/
def State.setBuf (s : State) (b : Buf) (m : Mem) : State :=
  match b with
  | .pix => { s with pix := m }
  | .ras => { s with ras := m }
  | .raw => { s with raw := m }
  | .pfx => { s with pfx := m }
  | .pay => { s with pay := m }

/-- Byte `i` of buffer `b`, if it has a value: the model's read of one byte. -/
def State.byte (s : State) (b : Buf) (i : Nat) : Option Byte := (s.buf b).read i

/-! ### Registers -/

/-- The stored value of a register, zero-extended to 16 bits (20_memory.md R62, 10_state.md R21). -/
def State.regValue (s : State) : Reg → Word
  | .cmd => s.cmd
  | .status => s.status
  | .imgW => s.imgW
  | .imgH => s.imgH
  | .padLen => s.padLen
  | .padByte => s.padByte.setWidth 16
  | .packLen => s.packLen
  | .rasLen => s.rasLen
  | .rawLen => s.rawLen
  | .pfxLen => s.pfxLen.setWidth 16
  | .expLen => s.expLen
  | .payLen => s.payLen
  | .dpi => s.dpi
  | .hwMaj => s.hwMaj.setWidth 16
  | .hwMin => s.hwMin.setWidth 16
  | .hwPat => s.hwPat.setWidth 16
  | .fwMaj => s.fwMaj.setWidth 16
  | .fwMin => s.fwMin.setWidth 16
  | .fwPat => s.fwPat.setWidth 16
  | .tmoRaw => s.tmoRaw.setWidth 16
  | .tmoMin => s.tmoMin.setWidth 16
  | .beepRaw => s.beepRaw.setWidth 16
  | .beep => s.beep.setWidth 16
  | .batRaw => s.batRaw.setWidth 16
  | .batPct => s.batPct.setWidth 16
  | .chgRaw => s.chgRaw.setWidth 16
  | .chg => s.chg.setWidth 16

/-- An RW register takes the low bits of `v` that it has room for (20_memory.md R63). An RO register keeps its value:
the host's write of it is refused before this (R66). -/
def State.storeReg (s : State) (r : Reg) (v : Word) : State :=
  match r with
  | .cmd => { s with cmd := v }
  | .imgW => { s with imgW := v }
  | .imgH => { s with imgH := v }
  | .padLen => { s with padLen := v }
  | .padByte => { s with padByte := v.setWidth 8 }
  | .rawLen => { s with rawLen := v }
  | .pfxLen => { s with pfxLen := v.setWidth 8 }
  | .expLen => { s with expLen := v }
  | .payLen => { s with payLen := v }
  | .status | .packLen | .rasLen | .dpi | .hwMaj | .hwMin | .hwPat | .fwMaj | .fwMin | .fwPat
  | .tmoRaw | .tmoMin | .beepRaw | .beep | .batRaw | .batPct | .chgRaw | .chg => s

/-! ### Outcomes of a command -/

/-- The free values of this draw are used up: the next free value is another one (log 7). -/
def State.nextDraw (s : State) : State := { s with draws := s.draws + 1 }

/-- STATUS.OK and STATUS.ERR take the outcome of a command (10_state.md R36). -/
def State.recordOutcome (s : State) (e : ErrorCode) : State := { s with status := Status.setOutcome s.status e }

/-- A register becomes unspecified: the free value of this draw for that register number (10_state.md R35; log 6). -/
def State.freeReg (s : State) (w number : Nat) : BitVec w := (Config.freeRegister s.draws number).setWidth w

/-- The config result group becomes invalid and its registers 0x10 to 0x1A unspecified (60_exceptions.md R206). -/
def State.invalidateConfig (s : State) : State :=
  { s with
    status := Status.setTmoKnown (Status.setCfgValid s.status false) false
    dpi := s.freeReg 16 0x10
    hwMaj := s.freeReg 8 0x11
    hwMin := s.freeReg 8 0x12
    hwPat := s.freeReg 8 0x13
    fwMaj := s.freeReg 8 0x14
    fwMin := s.freeReg 8 0x15
    fwPat := s.freeReg 8 0x16
    tmoRaw := s.freeReg 8 0x17
    tmoMin := s.freeReg 8 0x18
    beepRaw := s.freeReg 8 0x19
    beep := s.freeReg 2 0x1A }

/-- The battery result group becomes invalid and its registers 0x1B to 0x1E unspecified (60_exceptions.md R206). -/
def State.invalidateBattery (s : State) : State :=
  { s with
    status := Status.setBatKnown (Status.setBatValid s.status false) false
    batRaw := s.freeReg 8 0x1B
    batPct := s.freeReg 8 0x1C
    chgRaw := s.freeReg 8 0x1D
    chg := s.freeReg 2 0x1E }

/-- PAY_LEN <- 0, TERMOK <- 0, every byte of PAY unspecified (60_exceptions.md R206). -/
def State.invalidatePayload (s : State) : State :=
  { s with payLen := 0#16, status := Status.setTermok s.status false, pay := [] }

/-- RAS_LEN <- 0, PACK_LEN <- 0, every byte of RAS unspecified (60_exceptions.md R206). -/
def State.invalidateRaster (s : State) : State := { s with rasLen := 0#16, packLen := 0#16, ras := [] }

/-- The table of 60_exceptions.md R206: what an error of a command invalidates. -/
def State.invalidate (s : State) : OutputGroup → State
  | .payload => s.invalidatePayload.nextDraw
  | .config => s.invalidateConfig.nextDraw
  | .battery => s.invalidateBattery.nextDraw
  | .raster => s.invalidateRaster.nextDraw
  | .nothing => s

/-- ERROR ENTRY, for every error of every command (60_exceptions.md R206): the outputs of the command are invalidated,
STATUS.OK <- 0, STATUS.ERR <- code. Nothing is saved, no mode changes, control goes nowhere. -/
def State.raise (s : State) (g : OutputGroup) (e : ErrorCode) : State := (s.invalidate g).recordOutcome e

/-- The block as after reset (10_state.md R39): every field of the block at its reset value. The model's own fields,
which are no state of the block (10_state.md R24), go on. -/
def State.resetBlock (s : State) : State :=
  { State.reset with
    pending := s.pending
    position := s.position
    responses := s.responses
    draws := s.draws + 1 }

end Sys2Proof.Machine
end

