-- ==== Sys2Proof/Machine/Operands.lean ====
section
/-! DEFINITION. How a register number or a buffer id names its place (10_state.md R21, R30), when a place has a
specified value (R31, R35), and the reading of a command's implicit operands (30_encoding.md R82, 20_memory.md R79). -/

namespace Sys2Proof.Machine

/-! ### Registers by number -/

/-- The register of a number; 0x0C to 0x0F and 0x1F and above do not exist (10_state.md R21). -/
def regOfNumber : Nat → Option Reg
  | 0x00 => some .cmd
  | 0x01 => some .status
  | 0x02 => some .imgW
  | 0x03 => some .imgH
  | 0x04 => some .padLen
  | 0x05 => some .padByte
  | 0x06 => some .packLen
  | 0x07 => some .rasLen
  | 0x08 => some .rawLen
  | 0x09 => some .pfxLen
  | 0x0A => some .expLen
  | 0x0B => some .payLen
  | 0x10 => some .dpi
  | 0x11 => some .hwMaj
  | 0x12 => some .hwMin
  | 0x13 => some .hwPat
  | 0x14 => some .fwMaj
  | 0x15 => some .fwMin
  | 0x16 => some .fwPat
  | 0x17 => some .tmoRaw
  | 0x18 => some .tmoMin
  | 0x19 => some .beepRaw
  | 0x1A => some .beep
  | 0x1B => some .batRaw
  | 0x1C => some .batPct
  | 0x1D => some .chgRaw
  | 0x1E => some .chg
  | _ => none

/-- Column No. of 10_state.md R21. -/
def regNumber : Reg → Nat
  | .cmd => 0x00
  | .status => 0x01
  | .imgW => 0x02
  | .imgH => 0x03
  | .padLen => 0x04
  | .padByte => 0x05
  | .packLen => 0x06
  | .rasLen => 0x07
  | .rawLen => 0x08
  | .pfxLen => 0x09
  | .expLen => 0x0A
  | .payLen => 0x0B
  | .dpi => 0x10
  | .hwMaj => 0x11
  | .hwMin => 0x12
  | .hwPat => 0x13
  | .fwMaj => 0x14
  | .fwMin => 0x15
  | .fwPat => 0x16
  | .tmoRaw => 0x17
  | .tmoMin => 0x18
  | .beepRaw => 0x19
  | .beep => 0x1A
  | .batRaw => 0x1B
  | .batPct => 0x1C
  | .chgRaw => 0x1D
  | .chg => 0x1E

/-- Column W of 10_state.md R21. -/
def regWidth : Reg → Nat
  | .cmd | .status | .imgW | .imgH | .padLen | .packLen | .rasLen | .rawLen | .expLen | .payLen | .dpi => 16
  | .beep | .chg => 2
  | .padByte | .pfxLen | .hwMaj | .hwMin | .hwPat | .fwMaj | .fwMin | .fwPat | .tmoRaw | .tmoMin | .beepRaw
  | .batRaw | .batPct | .chgRaw => 8

/-- Column Acc of 10_state.md R21: `true` for RW, `false` for RO. -/
def regWritable : Reg → Bool
  | .cmd | .imgW | .imgH | .padLen | .padByte | .rawLen | .pfxLen | .expLen | .payLen => true
  | .status | .packLen | .rasLen | .dpi | .hwMaj | .hwMin | .hwPat | .fwMaj | .fwMin | .fwPat
  | .tmoRaw | .tmoMin | .beepRaw | .beep | .batRaw | .batPct | .chgRaw | .chg => false

/-- Whether the value of a register is specified (10_state.md R35): a result register while its group is valid,
TMO_MIN and BAT_PCT only while they are known besides, any other register always. -/
def State.regSpecified (s : State) : Reg → Bool
  | .dpi | .hwMaj | .hwMin | .hwPat | .fwMaj | .fwMin | .fwPat | .tmoRaw | .beepRaw | .beep => Status.cfgValid s.status
  | .tmoMin => Status.cfgValid s.status && Status.tmoKnown s.status
  | .batRaw | .chgRaw | .chg => Status.batValid s.status
  | .batPct => Status.batValid s.status && Status.batKnown s.status
  | .cmd | .status | .imgW | .imgH | .padLen | .padByte | .packLen | .rasLen | .rawLen | .pfxLen | .expLen
  | .payLen => true

/-- What a read of a register whose value is unspecified finds: any value of the register's width
(93_implementation_defined.md U2, U3; log 5). -/
def State.drawReg (s : State) (r : Reg) : Word := (s.freeReg (regWidth r) (regNumber r)).setWidth 16

/-- What the host reads from a register (20_memory.md R62): its value where it is specified. -/
def State.hostReg (s : State) (r : Reg) : Word := if s.regSpecified r then s.regValue r else s.drawReg r

/-! ### Buffers by id -/

/-- The buffer of an id (10_state.md R30). -/
def bufOfId : Nat → Option Buf
  | 0 => some .pix
  | 1 => some .ras
  | 2 => some .raw
  | 3 => some .pfx
  | 4 => some .pay
  | _ => none

/-- Column Id of 10_state.md R30. -/
def bufId : Buf → Nat
  | .pix => 0
  | .ras => 1
  | .raw => 2
  | .pfx => 3
  | .pay => 4

/-- Column Cap of 10_state.md R30. -/
def bufCapacity : Buf → Nat
  | .pix => Config.pixCap
  | .ras => Config.rasCap
  | .raw => Config.rawCap
  | .pfx => Config.pfxCap
  | .pay => Config.payCap

/-- Column host access of 10_state.md R30: RAS is read only. -/
def bufWritable : Buf → Bool
  | .ras => false
  | .pix | .raw | .pfx | .pay => true

/-- IMG_W * IMG_H, exact (42_raster.md R167). -/
def State.pixelCount (s : State) : Nat := s.imgW.toNat * s.imgH.toNat

/-- Column valid region of 10_state.md R30: the region is `[0, validLength)`. -/
def State.validLength (s : State) : Buf → Nat
  | .pix => s.pixelCount
  | .ras => s.rasLen.toNat
  | .raw => s.rawLen.toNat
  | .pfx => s.pfxLen.toNat
  | .pay => s.payLen.toNat

/-- Whether a host read of byte `i` of a buffer finds a specified value: the byte has one and lies in the buffer's valid
region (10_state.md R31, 93_implementation_defined.md U1; log 8). -/
def State.byteSpecified (s : State) (b : Buf) (i : Nat) : Bool :=
  (s.byte b i).isSome && i < s.validLength b

/-- What a read of a byte without a specified value finds (93_implementation_defined.md U1; log 4). -/
def State.drawByte (s : State) (b : Buf) (i : Nat) : Byte := Config.freeByte s.draws (bufId b) i

/-! ### Operands of a command -/

/-- What a command finds at index `i` of an input buffer: the byte's value, or the free value of this draw where it
has none (70_reset_and_hazards.md R234; log 4). -/
def State.operandByte (s : State) (b : Buf) (i : Nat) : Byte := (s.byte b i).getD (s.drawByte b i)

/-- `BUF[0..n)` as a command reads it (20_memory.md R79). -/
def State.region (s : State) (b : Buf) (n : Nat) : List Byte := (List.range n).map (s.operandByte b)

/-- What the host reads from byte `i` of a buffer (20_memory.md R64): the byte where it is specified. -/
def State.hostByte (s : State) (b : Buf) (i : Nat) : Byte :=
  if s.byteSpecified b i then s.operandByte b i else s.drawByte b i

end Sys2Proof.Machine
end

