-- ==== Sys2Proof/Machine/Control.lean ====
section
/-! DEFINITION. The control unit: NOP and CLR (43_control.md R190, R191). -/

namespace Sys2Proof.Machine

/-- NOP (43_control.md R190): nothing. CMD took the word 0x0000 by the host's write (10_state.md R22). -/
def execNop (s : State) : Host.Outcome State Fault Refusal := .next s

/-- CLR (43_control.md R191): the reset state of the block. -/
def execClr (s : State) : Host.Outcome State Fault Refusal := .next s.resetBlock

end Sys2Proof.Machine
end

