-- ==== Sys2Proof/Machine/Decoder.lean ====
section
/-! DEFINITION. The decoder unit: the pure functions of 41_decoder.md R121 to R125 and the commands DEC.CFG, DEC.BAT. -/

namespace Sys2Proof.Machine

/-- `be16` (41_decoder.md R121): the first byte is the more significant. -/
def be16 (b0 b1 : Byte) : Nat := 256 * b0.toNat + b1.toNat

/-- `bool3` (41_decoder.md R122). -/
def bool3 (b : Byte) : Bool3 :=
  if b = 0x00#8 then .isFalse else if b = 0x01#8 then .isTrue else .unknown

/-- How a Bool3 is stored in its 2-bit register (10_state.md R33). -/
def bool3Number : Bool3 → BitVec 2
  | .isFalse => 0#2
  | .isTrue => 1#2
  | .unknown => 2#2

/-- `timeout_minutes` (41_decoder.md R123): the entry of TMO_TABLE; `none` is Unknown. -/
def timeoutMinutes (b : Byte) : Option Nat := Config.tmoTable.lookup b.toNat

/-- `battery_percent` (41_decoder.md R124): the two hexadecimal digits read as decimal; `none` is Unknown. -/
def batteryPercent (b : Byte) : Option Nat :=
  let hi := (b.extractLsb' 4 4).toNat
  let lo := (b.extractLsb' 0 4).toNat
  if 9 < hi ∨ 9 < lo then none else some (10 * hi + lo)

/-- The record of `decode_config` (41_decoder.md R125). -/
structure ConfigRecord where
  dpi     : Nat
  hwMaj   : Byte
  hwMin   : Byte
  hwPat   : Byte
  fwMaj   : Byte
  fwMin   : Byte
  fwPat   : Byte
  tmoRaw  : Byte
  tmo     : Option Nat
  beepRaw : Byte
  beep    : Bool3
  deriving DecidableEq, Repr

/-- The record of `decode_battery` (41_decoder.md R125). -/
structure BatteryRecord where
  batRaw : Byte
  bat    : Option Nat
  chgRaw : Byte
  chg    : Bool3
  deriving DecidableEq, Repr

/-- `decode_config` (41_decoder.md R125, offsets of 30_encoding.md R87). -/
def decodeConfig : List Byte → Except ErrorCode ConfigRecord
  | [p0, p1, p2, p3, p4, p5, p6, p7, p8, p9] =>
    .ok { dpi := be16 p0 p1, hwMaj := p2, hwMin := p3, hwPat := p4, fwMaj := p5, fwMin := p6, fwPat := p7,
          tmoRaw := p8, tmo := timeoutMinutes p8, beepRaw := p9, beep := bool3 p9 }
  | _ => .error .lengthMismatch

/-- `decode_battery` (41_decoder.md R125, offsets of 30_encoding.md R88). -/
def decodeBattery : List Byte → Except ErrorCode BatteryRecord
  | [p0, p1] => .ok { batRaw := p0, bat := batteryPercent p0, chgRaw := p1, chg := bool3 p1 }
  | _ => .error .lengthMismatch

/-- A classification register takes its table value, or becomes unspecified where the classification is Unknown
(41_decoder.md R126, R127; log 6). -/
def State.classified (s : State) (value : Option Nat) (number : Nat) : Byte :=
  match value with
  | some m => BitVec.ofNat 8 m
  | none => s.freeReg 8 number

/-- The success part of DEC.CFG (41_decoder.md R126). -/
def State.storeConfig (s : State) (r : ConfigRecord) : State :=
  { s with
    dpi := BitVec.ofNat 16 r.dpi
    hwMaj := r.hwMaj
    hwMin := r.hwMin
    hwPat := r.hwPat
    fwMaj := r.fwMaj
    fwMin := r.fwMin
    fwPat := r.fwPat
    tmoRaw := r.tmoRaw
    tmoMin := s.classified r.tmo 0x18
    beepRaw := r.beepRaw
    beep := bool3Number r.beep
    status := Status.setOutcome (Status.setCfgValid (Status.setTmoKnown s.status r.tmo.isSome) true) .noError
    draws := s.draws + 1 }

/-- The success part of DEC.BAT (41_decoder.md R127). -/
def State.storeBattery (s : State) (r : BatteryRecord) : State :=
  { s with
    batRaw := r.batRaw
    batPct := s.classified r.bat 0x1C
    chgRaw := r.chgRaw
    chg := bool3Number r.chg
    status := Status.setOutcome (Status.setBatValid (Status.setBatKnown s.status r.bat.isSome) true) .noError
    draws := s.draws + 1 }

/-- DEC.CFG (41_decoder.md R126): the length check is an exact equality and comes before any byte is read. -/
def execDecCfg (s : State) : Host.Outcome State Fault Refusal :=
  if s.payLen.toNat ≠ Config.lenConfig then .next (s.raise .config .lengthMismatch)
  else match decodeConfig (s.region .pay Config.lenConfig) with
    | .error e => .next (s.raise .config e)
    | .ok r => .next (s.storeConfig r)

/-- DEC.BAT (41_decoder.md R127). -/
def execDecBat (s : State) : Host.Outcome State Fault Refusal :=
  if s.payLen.toNat ≠ Config.lenBattery then .next (s.raise .battery .lengthMismatch)
  else match decodeBattery (s.region .pay Config.lenBattery) with
    | .error e => .next (s.raise .battery e)
    | .ok r => .next (s.storeBattery r)

end Sys2Proof.Machine
end

