-- ==== Sys2Proof/Machine/Framer.lean ====
section
/-! DEFINITION. The framer unit: FRAME, FRAME.CFG, FRAME.BAT (40_framer.md). -/

namespace Sys2Proof.Machine

/-- `frame(raw, prefix, expected_len)` of 40_framer.md R101: the payload and whether the two removed bytes were CR LF,
or BadPrefix, or BadLength. -/
def frameBytes (raw pfx : List Byte) (expected : Nat) : Except ErrorCode (List Byte × Bool) :=
  let p := pfx.length
  let n := raw.length
  if n < p ∨ raw.take p ≠ pfx then .error .badPrefix
  else if n - p < Config.termLen then .error .badLength
  else
    let payload := (raw.take (n - Config.termLen)).drop p
    if payload.length ≠ expected then .error .badLength
    else .ok (payload, raw.drop (n - Config.termLen) == Config.terminator)

/-- The success part of a framer command (40_framer.md R103): PAY, PAY_LEN, TERMOK, and OK = 1, ERR = 0. -/
def State.storePayload (s : State) (payload : List Byte) (len : Word) (termok : Bool) : State :=
  { s with
    pay := Mem.ofBytes payload
    payLen := len
    status := Status.setOutcome (Status.setTermok s.status termok) .noError
    draws := s.draws + 1 }

/-- A framer command from its check of the response on, with the prefix `pfx` and the expected length `len`
(40_framer.md R103). -/
def State.frameWith (s : State) (pfx : List Byte) (len : Word) : State :=
  match frameBytes (s.region .raw s.rawLen.toNat) pfx len.toNat with
  | .error e => s.raise .payload e
  | .ok (payload, termok) => s.storePayload payload len termok

/-- FRAME (40_framer.md R102, R103). -/
def execFrame (s : State) : Host.Outcome State Fault Refusal :=
  if Config.rawCap < s.rawLen.toNat ∨ Config.pfxCap < s.pfxLen.toNat then .next (s.raise .payload .badConfig)
  else .next (s.frameWith (s.region .pfx s.pfxLen.toNat) s.expLen)

/-- FRAME.CFG (40_framer.md R102, R104): PFX, PFX_LEN and EXP_LEN are not read. -/
def execFrameCfg (s : State) : Host.Outcome State Fault Refusal :=
  if Config.rawCap < s.rawLen.toNat then .next (s.raise .payload .badConfig)
  else .next (s.frameWith Config.pfxConfig (BitVec.ofNat 16 Config.lenConfig))

/-- FRAME.BAT (40_framer.md R102, R105): PFX, PFX_LEN and EXP_LEN are not read. -/
def execFrameBat (s : State) : Host.Outcome State Fault Refusal :=
  if Config.rawCap < s.rawLen.toNat then .next (s.raise .payload .badConfig)
  else .next (s.frameWith Config.pfxBattery (BitVec.ofNat 16 Config.lenBattery))

end Sys2Proof.Machine
end

