-- ==== Sys2Proof/Machine/Raster.lean ====
section
/-! DEFINITION. The raster unit: the stages of 42_raster.md R151 to R157, R160 and the commands ENC1, ENC2. -/

namespace Sys2Proof.Machine

/-! ### Stage 1: checks -/

/-- The checks of 42_raster.md R151, in their order: BadConfig, then Oversize, else the packed length `L`, computed on
exact integers (R167). -/
def rasterLength (bpp : Nat) (s : State) : Except ErrorCode Nat :=
  if Config.rasCap < s.padLen.toNat then .error .badConfig
  else if s.padLen.toNat < ceilDiv (s.pixelCount * bpp) 8 then .error .oversize
  else .ok (ceilDiv (s.pixelCount * bpp) 8)

/-! ### Stage 2: samples -/

/-- `quant2` (42_raster.md R152): `<64→0, <128→1, <192→2, else→3`. -/
def quant2 (p : Byte) : BitVec 2 :=
  if p.toNat < Config.t1 then 0#2 else if p.toNat < Config.t2 then 1#2 else if p.toNat < Config.t3 then 2#2 else 3#2

/-- `clamp(v, lo, hi)` (00_scope.md R13). -/
def clamp (v lo hi : Int) : Int := if v < lo then lo else if hi < v then hi else v

/-- `asr(v, n)` = floor(v / 2^n) (00_scope.md R13). -/
def asr (v : Int) (n : Nat) : Int := v / 2 ^ n

/-- `v` of 42_raster.md R160: the pixel plus a sixteenth of its accumulated error, clamped to 0 to 255. -/
def ditherValue (p : Byte) (err : Int) : Int := clamp (p.toNat + asr err 4) 0 255

/-- `bit` of 42_raster.md R160: 1 (white) exactly when `v >= 128`. -/
def ditherBit (v : Int) : BitVec 1 := if Config.ditherT ≤ v then 1#1 else 0#1

/-- `e` of 42_raster.md R160: what the chosen bit leaves over. -/
def ditherError (v : Int) : Int := v - (if ditherBit v = 1#1 then 255 else 0)

/-- `E[i] <- E[i] + d`. -/
def addError (errs : List Int) (i : Nat) (d : Int) : List Int := errs.modify i (· + d)

/-- The four pushes of 42_raster.md R160 from pixel (x, y), whose own entry is the head of `errs`: the entry of
(x+1, y) is 1 further on, those of row y+1 are W-1, W and W+1 further on. A share that would fall outside the grid is
dropped. -/
def spreadError (w h x y : Nat) (e : Int) (errs : List Int) : List Int :=
  let errs := if x + 1 < w then addError errs 1 (Config.fsRight * e) else errs
  let errs := if y + 1 < h ∧ 1 ≤ x then addError errs (w - 1) (Config.fsBelowLeft * e) else errs
  let errs := if y + 1 < h then addError errs w (Config.fsBelow * e) else errs
  if y + 1 < h ∧ x + 1 < w then addError errs (w + 1) (Config.fsBelowRight * e) else errs

/-- The scan of 42_raster.md R160 from sample index `n` on (row-major, left to right, top to bottom): `errs` holds the
accumulated errors E of the pixels still to visit, in the same order, and `pixels` their intensities. -/
def ditherFrom (w h : Nat) (n : Nat) (errs : List Int) : List Byte → List (BitVec 1)
  | [] => []
  | p :: rest =>
    let v := ditherValue p (errs.headD 0)
    ditherBit v :: ditherFrom w h (n + 1) (spreadError w h (n % w) (n / w) (ditherError v) errs).tail rest

/-- `dither(W, H, g)` (42_raster.md R160) on the row-major pixels `g`, as row-major bits: E starts at 0. -/
def dither (w h : Nat) (g : List Byte) : List (BitVec 1) := ditherFrom w h 0 (List.replicate (w * h) 0) g

/-! ### Stages 3 and 4: packing and padding -/

/-- Byte `i` of `pack` (42_raster.md R155): the fill byte with the samples `i*k + j` put in, the first in the highest
bits. -/
def packByte {bpp : Nat} (samples : List (BitVec bpp)) (fill : Byte) (i : Nat) : Byte :=
  let k := 8 / bpp
  (List.range k).foldl (fun out j =>
    match samples[i * k + j]? with
    | some v => setField out (8 - bpp * (j + 1)) v
    | none => out) fill

/-- `pack(s, bpp, fill)` (42_raster.md R155, R156). -/
def pack {bpp : Nat} (samples : List (BitVec bpp)) (fill : Byte) : List Byte :=
  (List.range (ceilDiv (samples.length * bpp) 8)).map (packByte samples fill)

/-- `pad(b, n, fill)` (42_raster.md R157). -/
def pad (b : List Byte) (n : Nat) (fill : Byte) : List Byte := b ++ List.replicate (n - b.length) fill

/-! ### The commands -/

/-- The success part of ENC1 and ENC2 (42_raster.md R163, R164): RAS, PACK_LEN, RAS_LEN, and OK = 1, ERR = 0. -/
def State.storeRaster (s : State) (len : Nat) (packed : List Byte) : State :=
  { s with
    ras := Mem.ofBytes (pad packed s.padLen.toNat s.padByte)
    packLen := BitVec.ofNat 16 len
    rasLen := s.padLen
    status := Status.setOutcome s.status .noError
    draws := s.draws + 1 }

/-- The samples of ENC1 (42_raster.md R163): the dithered grid. -/
def State.samples1 (s : State) : List (BitVec 1) := dither s.imgW.toNat s.imgH.toNat (s.region .pix s.pixelCount)

/-- The samples of ENC2 (42_raster.md R164): the quantised grid. -/
def State.samples2 (s : State) : List (BitVec 2) := (s.region .pix s.pixelCount).map quant2

/-- ENC1 (42_raster.md R163). -/
def execEnc1 (s : State) : Host.Outcome State Fault Refusal :=
  match rasterLength 1 s with
  | .error e => .next (s.raise .raster e)
  | .ok len => .next (s.storeRaster len (pack s.samples1 s.padByte))

/-- ENC2 (42_raster.md R164). -/
def execEnc2 (s : State) : Host.Outcome State Fault Refusal :=
  match rasterLength 2 s with
  | .error e => .next (s.raise .raster e)
  | .ok len => .next (s.storeRaster len (pack s.samples2 s.padByte))

end Sys2Proof.Machine
end

