-- ==== Sys2Proof/Machine/Dispatch.lean ====
section
/-! DEFINITION. The meaning of each command, one arm per constructor (30_encoding.md R81). -/

namespace Sys2Proof.Machine

def exec (i : Instr) (s : State) : Host.Outcome State Fault Refusal :=
  match i with
  | .nop => Sys2Proof.Machine.execNop s
  | .clr => Sys2Proof.Machine.execClr s
  | .frame => Sys2Proof.Machine.execFrame s
  | .frameCfg => Sys2Proof.Machine.execFrameCfg s
  | .frameBat => Sys2Proof.Machine.execFrameBat s
  | .decCfg => Sys2Proof.Machine.execDecCfg s
  | .decBat => Sys2Proof.Machine.execDecBat s
  | .enc1 => Sys2Proof.Machine.execEnc1 s
  | .enc2 => Sys2Proof.Machine.execEnc2 s

end Sys2Proof.Machine
end

