-- ==== Sys2Proof/Machine/Transact.lean ====
section
/-! DEFINITION. The four host transactions (20_memory.md R62 to R66) and the write of CMD, which performs a command
(10_state.md R22). -/

namespace Sys2Proof.Machine

/-- A transaction is complete: the host has its response and the index of 10_state.md R24 advances by exactly 1. -/
def State.respond (s : State) (r : Response) : State :=
  { s with position := s.position + 1, responses := r :: s.responses }

/-- A transaction that performed a command completes with `ok` whether or not the command ended with an error
(20_memory.md R63). -/
def respondAfter (o : Host.Outcome State Fault Refusal) : Host.Outcome State Fault Refusal :=
  match o with
  | .next t => .next (t.respond .ok)
  | .fault f => .fault f
  | .refused r => .refused r

/-- RegRead(n) (20_memory.md R62): the value, or any value of the register's width where it is unspecified
(10_state.md R35; log 5), or accerr. It changes no state, so a repeated read gives the same (R71). -/
def hostRegRead (n : Nat) (s : State) : State :=
  match regOfNumber n with
  | none => s.respond .accerr
  | some r => s.respond (.okWord (s.hostReg r))

/-- The command of a word just stored in CMD (10_state.md R22): the table's command, or IllegalCommand
(30_encoding.md R83, 60_exceptions.md R205). -/
def performWord (w : Word) (s : State) : Host.Outcome State Fault Refusal :=
  match decode w with
  | .ok i => exec i s
  | .error _ => .next (s.raise .nothing .illegalCommand)

/-- RegWrite(n, v) (20_memory.md R63): accerr for a number that does not exist or an RO register; else the register
takes the value, and a write of CMD then performs the command. What is unspecified after a write is a new free value
(log 7). -/
def hostRegWrite (n : Nat) (v : Word) (s : State) : Host.Outcome State Fault Refusal :=
  match regOfNumber n with
  | none => .next (s.respond .accerr)
  | some r =>
    if regWritable r then
      if r = .cmd then respondAfter (performWord v (s.storeReg .cmd v))
      else .next ((s.storeReg r v).nextDraw.respond .ok)
    else .next (s.respond .accerr)

/-- BufRead(b, i) (20_memory.md R64): the byte, or any byte where it is unspecified (10_state.md R31; log 4, log 8),
or accerr. It changes no state, so a repeated read gives the same (R71). -/
def hostBufRead (b i : Nat) (s : State) : State :=
  match bufOfId b with
  | none => s.respond .accerr
  | some buf =>
    if i < bufCapacity buf then s.respond (.okByte (s.hostByte buf i))
    else s.respond .accerr

/-- BufWrite(b, i, v) (20_memory.md R65). What is unspecified after a write is a new free value (log 7). -/
def hostBufWrite (b i : Nat) (v : Byte) (s : State) : State :=
  match bufOfId b with
  | none => s.respond .accerr
  | some buf =>
    if bufWritable buf ∧ i < bufCapacity buf then (s.setBuf buf ((s.buf buf).write i v)).nextDraw.respond .ok
    else s.respond .accerr

/-- One host transaction, complete (20_memory.md R74). -/
def transact (t : HostTxn) (s : State) : Host.Outcome State Fault Refusal :=
  match t with
  | .regRead n => .next (hostRegRead n s)
  | .regWrite n v => hostRegWrite n v s
  | .bufRead b i => .next (hostBufRead b i s)
  | .bufWrite b i v => .next (hostBufWrite b i v s)

/-- The state with the list of the host's transactions to come replaced. -/
def State.withPending (s : State) (rest : List HostTxn) : State := { s with pending := rest }

/-- The host issues its next transaction: it is taken off the list of those to come. With none to come the block is
idle and keeps all its state (20_memory.md R61, 60_exceptions.md R213; log 1). -/
def issueNext (s : State) : Host.Outcome State Fault Refusal :=
  match s.pending with
  | [] => .next s
  | t :: rest => transact t (s.withPending rest)

/-- The host's write of a command word: RegWrite(0x00, w) (30_encoding.md R91). -/
def commandWrite (w : Word) : HostTxn := .regWrite 0x00 w

/-- The state in which the host's next transaction is `t`. -/
def State.willIssue (s : State) (t : HostTxn) : State := s.withPending (t :: s.pending)

end Sys2Proof.Machine
end

