-- ==== Sys2Proof/Machine/Step.lean ====
section
/-! DEFINITION. One step: the host's next transaction, complete (10_state.md R24, 20_memory.md R74). -/

namespace Sys2Proof.Machine

/-- One step of the machine: one host transaction, including, for a write of CMD, the whole command. -/
def step (s : State) : Host.Outcome State Fault Refusal := issueNext s

/-- `s` in which the host's next transaction writes the command word made of the low `nbits` bits of `w` (log 2): the
block fetches nothing (20_memory.md R76), the word performed is the one the write of CMD carries. -/
def State.withFetchWord (s : State) (nbits w : Nat) : State :=
  s.willIssue (commandWrite (BitVec.ofNat 16 (w % 2 ^ nbits)))

end Sys2Proof.Machine
end

