-- ==== Sys2Proof/Machine/Script.lean ====
section
/-! DEFINITION. The host-script syntax: each line and pseudo-instruction of 30_encoding.md R91, R92 as the list of
transactions it stands for. -/

namespace Sys2Proof.Machine.Script

/-- `wr REG, v` (30_encoding.md R91). -/
def wr (r : Reg) (v : Word) : List HostTxn := [.regWrite (regNumber r) v]

/-- `rd REG`. -/
def rd (r : Reg) : List HostTxn := [.regRead (regNumber r)]

/-- `bw BUF, i, v`. -/
def bw (b : Buf) (i : Nat) (v : Byte) : List HostTxn := [.bufWrite (bufId b) i v]

/-- `br BUF, i`. -/
def br (b : Buf) (i : Nat) : List HostTxn := [.bufRead (bufId b) i]

/-- `cmd MNEMONIC`: the word of the opcode table written to CMD. -/
def cmd (i : Instr) : List HostTxn := [.regWrite 0x00 (encode i)]

/-- `cmd 0xNNNN`, for illegal words. -/
def cmdWord (w : Word) : List HostTxn := [.regWrite 0x00 w]

/-- `bw BUF, i, b0` ... from index `i` on. -/
def writeBytes (b : Buf) (i : Nat) : List Byte → List HostTxn
  | [] => []
  | v :: rest => .bufWrite (bufId b) i v :: writeBytes b (i + 1) rest

/-- `loadraw b0 ... b(n-1)` (30_encoding.md R92). -/
def loadraw (bytes : List Byte) : List HostTxn := writeBytes .raw 0 bytes ++ wr .rawLen (BitVec.ofNat 16 bytes.length)

/-- `loadpfx b0 ... b(n-1)` (30_encoding.md R92). -/
def loadpfx (bytes : List Byte) : List HostTxn := writeBytes .pfx 0 bytes ++ wr .pfxLen (BitVec.ofNat 16 bytes.length)

/-- `loadpay b0 ... b(n-1)` (30_encoding.md R92). -/
def loadpay (bytes : List Byte) : List HostTxn := writeBytes .pay 0 bytes ++ wr .payLen (BitVec.ofNat 16 bytes.length)

/-- `loadpix W, H : p0 ...` (30_encoding.md R92). -/
def loadpix (w h : Word) (pixels : List Byte) : List HostTxn := wr .imgW w ++ wr .imgH h ++ writeBytes .pix 0 pixels

end Sys2Proof.Machine.Script
end

