-- ==== Sys2Proof/Safety.lean ====
section
/-! DEFINITION. The terms that claims about the machine use: the block apart from the model's own fields, what a command
reads, what may be written by what (10_state.md R21, R30, R36), and the invariants of the state. -/

namespace Sys2Proof.Machine

/-! ### The block and the host's side -/

/-- The block's part of a state: its 27 registers and five buffers (10_state.md R20), the model's own fields blanked.
Two states have the same block exactly when these are equal. -/
def State.block (s : State) : State := { s with pending := [], position := 0, responses := [], draws := 0 }

/-- A run of `k` steps from `s` ends in `t`. -/
def RunsTo (k : Nat) (s t : State) : Prop := Host.Core.run Sys2Proof.core k s = .next t

/-! ### STATUS -/

/-- Every bit of STATUS but those listed is as before. -/
def StatusKept (except : List Nat) (w w' : Word) : Prop := ∀ k, k ∉ except → w'.getLsbD k = w.getLsbD k

/-- The STATUS bits of OK and ERR (10_state.md R23). -/
def outcomeBits : List Nat := [0, 4, 5, 6, 7]

/-- The STATUS bits that a command writes (10_state.md R36). -/
def statusBitsOf : Instr → List Nat
  | .nop => []
  | .clr => List.range 16
  | .frame | .frameCfg | .frameBat => 1 :: outcomeBits
  | .decCfg => 8 :: 10 :: outcomeBits
  | .decBat => 9 :: 11 :: outcomeBits
  | .enc1 | .enc2 => outcomeBits

/-- The errors that a command can raise (60_exceptions.md R202). -/
def errorsOf : Instr → List ErrorCode
  | .nop | .clr => []
  | .frame | .frameCfg | .frameBat => [.badConfig, .badPrefix, .badLength]
  | .decCfg | .decBat => [.lengthMismatch]
  | .enc1 | .enc2 => [.badConfig, .oversize]

/-! ### What writes what -/

/-- Column "written by" of 10_state.md R21, the commands of it, with CLR, which resets every register. -/
def writersOfReg : Reg → List Instr
  | .status => [.clr, .frame, .frameCfg, .frameBat, .decCfg, .decBat, .enc1, .enc2]
  | .cmd | .imgW | .imgH | .padLen | .padByte | .rawLen | .pfxLen | .expLen => [.clr]
  | .packLen | .rasLen => [.clr, .enc1, .enc2]
  | .payLen => [.clr, .frame, .frameCfg, .frameBat]
  | .dpi | .hwMaj | .hwMin | .hwPat | .fwMaj | .fwMin | .fwPat | .tmoRaw | .tmoMin | .beepRaw | .beep => [.clr, .decCfg]
  | .batRaw | .batPct | .chgRaw | .chg => [.clr, .decBat]

/-- Column block access of 10_state.md R30, the commands that write a buffer, with CLR. -/
def writersOfBuf : Buf → List Instr
  | .pix | .raw | .pfx => [.clr]
  | .ras => [.clr, .enc1, .enc2]
  | .pay => [.clr, .frame, .frameCfg, .frameBat]

/-! ### What a command reads -/

/-- The buffer regions `BUF[0..n)` that a command reads, once the checks that come before its reads have passed
(20_memory.md R79). -/
def regionsRead (i : Instr) (s : State) : List (Buf × Nat) :=
  match i with
  | .nop | .clr => []
  | .frame =>
    if s.rawLen.toNat ≤ Config.rawCap ∧ s.pfxLen.toNat ≤ Config.pfxCap
    then [(.raw, s.rawLen.toNat), (.pfx, s.pfxLen.toNat)] else []
  | .frameCfg | .frameBat => if s.rawLen.toNat ≤ Config.rawCap then [(.raw, s.rawLen.toNat)] else []
  | .decCfg => if s.payLen.toNat = Config.lenConfig then [(.pay, Config.lenConfig)] else []
  | .decBat => if s.payLen.toNat = Config.lenBattery then [(.pay, Config.lenBattery)] else []
  | .enc1 =>
    if s.padLen.toNat ≤ Config.rasCap ∧ ceilDiv (s.pixelCount * 1) 8 ≤ s.padLen.toNat then [(.pix, s.pixelCount)] else []
  | .enc2 =>
    if s.padLen.toNat ≤ Config.rasCap ∧ ceilDiv (s.pixelCount * 2) 8 ≤ s.padLen.toNat then [(.pix, s.pixelCount)] else []

/-- The operand registers of a command (30_encoding.md R82). -/
def registersRead : Instr → List Reg
  | .nop | .clr => []
  | .frame => [.rawLen, .pfxLen, .expLen]
  | .frameCfg | .frameBat => [.rawLen]
  | .decCfg | .decBat => [.payLen]
  | .enc1 | .enc2 => [.imgW, .imgH, .padLen, .padByte]

/-- The host has written every byte that the command reads (70_reset_and_hazards.md R233, R234). -/
def InputsWritten (i : Instr) (s : State) : Prop :=
  ∀ bn ∈ regionsRead i s, ∀ k < bn.2, (s.byte bn.1 k).isSome = true

/-- Two states give a command the same operands: the same operand registers, the same bytes in the regions it reads,
and the same free values. -/
def SameOperands (i : Instr) (s s' : State) : Prop :=
  (∀ r ∈ registersRead i, s.regValue r = s'.regValue r) ∧
  (∀ bn ∈ regionsRead i s, ∀ k < bn.2, s.operandByte bn.1 k = s'.operandByte bn.1 k) ∧ s.draws = s'.draws

/-- The registers a command writes, but STATUS and, for CLR, every register. -/
def outputRegs : Instr → List Reg
  | .nop => []
  | .clr => [.cmd, .imgW, .imgH, .padLen, .padByte, .packLen, .rasLen, .rawLen, .pfxLen, .expLen, .payLen,
      .dpi, .hwMaj, .hwMin, .hwPat, .fwMaj, .fwMin, .fwPat, .tmoRaw, .tmoMin, .beepRaw, .beep,
      .batRaw, .batPct, .chgRaw, .chg]
  | .frame | .frameCfg | .frameBat => [.payLen]
  | .decCfg => [.dpi, .hwMaj, .hwMin, .hwPat, .fwMaj, .fwMin, .fwPat, .tmoRaw, .tmoMin, .beepRaw, .beep]
  | .decBat => [.batRaw, .batPct, .chgRaw, .chg]
  | .enc1 | .enc2 => [.packLen, .rasLen]

/-- The buffers a command writes. -/
def outputBufs : Instr → List Buf
  | .nop | .decCfg | .decBat => []
  | .clr => [.pix, .ras, .raw, .pfx, .pay]
  | .frame | .frameCfg | .frameBat => [.pay]
  | .enc1 | .enc2 => [.ras]

/-! ### Invariants -/

/-- Every buffer has its canonical form: indices strictly rising and below the capacity (10_state.md R30). -/
def BuffersCanonical (s : State) : Prop := ∀ b, Mem.wf (bufCapacity b) (s.buf b)

/-- STATUS holds what 10_state.md R23 and 60_exceptions.md R201 say it can hold. -/
structure StatusLegal (w : Word) : Prop where
  /-- "Bits not listed read 0" -/
  reserved : ∀ k, k ∈ [2, 3, 12, 13, 14, 15] → w.getLsbD k = false
  /-- "Codes 7 to 15 are never written" -/
  code : (Status.err w).toNat ≤ 6
  /-- ERR is "0 when OK = 1" -/
  okNoError : Status.ok w = true → Status.err w = 0#4
  /-- TMO_KNOWN is "1 when CFG_VALID = 1 and ..." -/
  tmo : Status.tmoKnown w = true → Status.cfgValid w = true
  /-- BAT_KNOWN is "1 when BAT_VALID = 1 and ..." -/
  bat : Status.batKnown w = true → Status.batValid w = true

/-- While CFG_VALID = 1 the config group holds a decoded record: TMO_KNOWN and TMO_MIN agree with TMO_RAW, BEEP with
BEEP_RAW (10_state.md R23, R33). -/
structure ConfigGroupDecoded (s : State) : Prop where
  known : Status.cfgValid s.status = true → (Status.tmoKnown s.status = true ↔ s.tmoRaw.toNat ≤ 3)
  minutes : Status.cfgValid s.status = true → Status.tmoKnown s.status = true →
    (s.tmoRaw.toNat, s.tmoMin.toNat) ∈ [(0, 0), (1, 15), (2, 30), (3, 60)]
  beep : Status.cfgValid s.status = true → s.beep.toNat = min s.beepRaw.toNat 2

/-- While BAT_VALID = 1 the battery group holds a decoded record: BAT_KNOWN and BAT_PCT agree with BAT_RAW, CHG with
CHG_RAW (10_state.md R23, R33). -/
structure BatteryGroupDecoded (s : State) : Prop where
  known : Status.batValid s.status = true →
    (Status.batKnown s.status = true ↔ s.batRaw.toNat / 16 ≤ 9 ∧ s.batRaw.toNat % 16 ≤ 9)
  percent : Status.batValid s.status = true → Status.batKnown s.status = true →
    s.batPct.toNat = 10 * (s.batRaw.toNat / 16) + s.batRaw.toNat % 16
  charging : Status.batValid s.status = true → s.chg.toNat = min s.chgRaw.toNat 2

/-- PACK_LEN, RAS_LEN and RAS agree: PACK_LEN ≤ RAS_LEN ≤ 3408, and the bytes of RAS that have a value are those of
its valid region (42_raster.md R166, 10_state.md R30). -/
structure RasterConsistent (s : State) : Prop where
  pack : s.packLen.toNat ≤ s.rasLen.toNat
  cap : s.rasLen.toNat ≤ 3408
  valid : ∀ i, (s.byte .ras i).isSome = true ↔ i < s.rasLen.toNat

end Sys2Proof.Machine
end

