-- ==== Sys2Proof/Certificates/Slice0/Obligations.lean ====
section
/-! DEFINITION. The statements about the model, for the provers. Each docstring names the rules of spec/ it formalises.
The helper predicates of the namespace `Claim` spell out what a command leaves, in terms of single bytes
(`State.byte`), single registers and single STATUS bits. -/

namespace Sys2Proof.Machine.Claim

open Sys2Proof Sys2Proof.Machine

/-- The host's next transaction is `x` and `rest` follows. -/
def Issues (s : State) (x : HostTxn) (rest : List HostTxn) : Prop := s.pending = x :: rest

/-- `t` is the block of `s` after a transaction that changed nothing but what the host sees: the response `r`, the
list of transactions to come and the index. -/
def OnlyAnswers (s : State) (rest : List HostTxn) (r : Response) (t : State) : Prop :=
  t = { s with
    pending := rest
    position := s.position + 1
    responses := r :: s.responses }

/-- The host's reads: RegRead and BufRead (20_memory.md R62, R64). -/
def IsRead : HostTxn → Prop
  | .regRead _ | .bufRead _ _ => True
  | .regWrite _ _ | .bufWrite _ _ _ => False

/-- Index `i` lies in the valid region of buffer `b` (10_state.md R30). -/
def InValidRegion (s : State) (b : Buf) (i : Nat) : Prop :=
  match b with
  | .pix => i < s.imgW.toNat * s.imgH.toNat
  | .ras => i < s.rasLen.toNat
  | .raw => i < s.rawLen.toNat
  | .pfx => i < s.pfxLen.toNat
  | .pay => i < s.payLen.toNat

/-- STATUS after a command with outcome `e`: OK, ERR (60_exceptions.md R201), every bit outside `written` as before. -/
def StatusAfter (written : List Nat) (code : Nat) (w w' : Word) : Prop :=
  Status.ok w' = (code == 0) ∧ (Status.err w').toNat = code ∧ StatusKept written w w'

/-- The response in RAW starts with `pfx`, byte for byte (40_framer.md R101 step 1). -/
def StartsWith (s : State) (pfx : List Byte) : Prop :=
  pfx.length ≤ s.rawLen.toNat ∧ ∀ k (h : k < pfx.length), s.operandByte .raw k = pfx[k]

/-- The success of a framer command with a prefix of `p` bytes and a payload of `n` bytes (40_framer.md R103): what it
writes and that it writes nothing else. `PAY` holds the payload, its other bytes have no value. -/
def Framed (s t : State) (p n : Nat) : Prop :=
  t = { s with pay := t.pay, payLen := t.payLen, status := t.status, draws := t.draws } ∧
  t.payLen.toNat = n ∧
  (∀ j, t.byte .pay j = if j < n then some (s.operandByte .raw (p + j)) else none) ∧
  StatusAfter (1 :: outcomeBits) 0 s.status t.status ∧
  (Status.termok t.status = true ↔
    s.operandByte .raw (p + n) = 0x0D#8 ∧ s.operandByte .raw (p + n + 1) = 0x0A#8)

/-- The prefix and the expected length of a framer command (40_framer.md R103 to R105). -/
def framerOperands (i : Instr) (s : State) : Option (List Byte × Nat) :=
  match i with
  | .frame => some (s.region .pfx s.pfxLen.toNat, s.expLen.toNat)
  | .frameCfg => some ([0x43#8, 0x4F#8, 0x4E#8, 0x46#8, 0x49#8, 0x47#8, 0x20#8], 10)
  | .frameBat => some ([0x42#8, 0x41#8, 0x54#8, 0x54#8, 0x45#8, 0x52#8, 0x59#8, 0x20#8], 2)
  | .nop | .clr | .decCfg | .decBat | .enc1 | .enc2 => none

/-- A length register that the framer command uses does not fit its buffer (40_framer.md R102). -/
def FramerMisconfigured (i : Instr) (s : State) : Prop :=
  64 < s.rawLen.toNat ∨ (i = .frame ∧ 16 < s.pfxLen.toNat)

/-- The error entry of a framer command with the code `c` (60_exceptions.md R206). -/
def FrameFailed (s t : State) (c : Nat) : Prop :=
  t = { s with pay := t.pay, payLen := 0#16, status := t.status, draws := t.draws } ∧
  (∀ j, t.byte .pay j = none) ∧ StatusAfter (1 :: outcomeBits) c s.status t.status ∧ Status.termok t.status = false

/-- Every register outside 0x10 to 0x1A and every buffer is as before (but STATUS, which is said apart). -/
def OnlyConfigGroup (s t : State) : Prop :=
  t = { s with
    dpi := t.dpi, hwMaj := t.hwMaj, hwMin := t.hwMin, hwPat := t.hwPat, fwMaj := t.fwMaj, fwMin := t.fwMin
    fwPat := t.fwPat, tmoRaw := t.tmoRaw, tmoMin := t.tmoMin, beepRaw := t.beepRaw, beep := t.beep
    status := t.status, draws := t.draws }

/-- Every register outside 0x1B to 0x1E and every buffer is as before (but STATUS, which is said apart). -/
def OnlyBatteryGroup (s t : State) : Prop :=
  t = { s with
    batRaw := t.batRaw, batPct := t.batPct, chgRaw := t.chgRaw, chg := t.chg, status := t.status, draws := t.draws }

/-- A raw boolean byte and its Bool3 register agree (41_decoder.md R122, 10_state.md R33). -/
def Bool3Agrees (raw : Byte) (reg : BitVec 2) : Prop :=
  (raw = 0x00#8 → reg = 0#2) ∧ (raw = 0x01#8 → reg = 1#2) ∧ (2 ≤ raw.toNat → reg = 2#2)

/-- Only RAS, RAS_LEN, PACK_LEN and STATUS may differ. -/
def OnlyRaster (s t : State) : Prop :=
  t = { s with ras := t.ras, rasLen := t.rasLen, packLen := t.packLen, status := t.status, draws := t.draws }

/-- The success of an ENC command with `bpp` bits per pixel, apart from the samples (42_raster.md R163, R164, R156,
R157): lengths, which bytes of RAS have a value, and that every bit no sample covers is the pad byte's bit (bit `k` of
byte `i` is the `8*i + (7 - k)`-th of the raster, most significant first). -/
def Encoded (bpp : Nat) (s t : State) : Prop :=
  OnlyRaster s t ∧ t.packLen.toNat = (s.imgW.toNat * s.imgH.toNat * bpp + 7) / 8 ∧ t.rasLen = s.padLen ∧
  (∀ i, (t.byte .ras i).isSome = true ↔ i < s.padLen.toNat) ∧
  (∀ i v k, t.byte .ras i = some v → k < 8 → s.imgW.toNat * s.imgH.toNat * bpp ≤ 8 * i + (7 - k) →
    v.getLsbD k = s.padByte.getLsbD k) ∧
  StatusAfter outcomeBits 0 s.status t.status

/-- The checks of an ENC command pass (42_raster.md R151). -/
def GridFits (bpp : Nat) (s : State) : Prop :=
  s.padLen.toNat ≤ 3408 ∧ (s.imgW.toNat * s.imgH.toNat * bpp + 7) / 8 ≤ s.padLen.toNat

/-- The error entry of an ENC command with the code `c` (60_exceptions.md R206). -/
def EncodeFailed (s t : State) (c : Nat) : Prop :=
  OnlyRaster s t ∧ t.rasLen = 0#16 ∧ t.packLen = 0#16 ∧ (∀ i, t.byte .ras i = none) ∧
  StatusAfter outcomeBits c s.status t.status

/-! ### A row-by-row form of the dithering, for the refinement statement -/

/-- One row, left to right: `left` is the error of the pixel to the left, `above` what the row above pushed down to each
pixel. Each pixel's bit and the error it leaves over. -/
def ditherRow (left : Int) (above : List Int) : List Byte → List (BitVec 1 × Int)
  | [] => []
  | p :: rest =>
    let v := ditherValue p (above.headD 0 + 7 * left)
    (ditherBit v, ditherError v) :: ditherRow (ditherError v) above.tail rest

/-- What a row with errors `e` pushes down: pixel `x` of the next row gets `e[x-1] + 5 e[x] + 3 e[x+1]`. -/
def pushedDown (e : List Int) : List Int :=
  (List.range e.length).map fun x =>
    (if x = 0 then 0 else e.getD (x - 1) 0) + 5 * e.getD x 0 + 3 * e.getD (x + 1) 0

/-- The rows from the top down, with two rows of errors and no more. -/
def ditherRows (w : Nat) (above : List Int) : Nat → List Byte → List (BitVec 1)
  | 0, _ => []
  | h + 1, g =>
    let row := ditherRow 0 above (g.take w)
    row.map (·.1) ++ ditherRows w (pushedDown (row.map (·.2))) h (g.drop w)

end Sys2Proof.Machine.Claim

open Sys2Proof Sys2Proof.Machine Sys2Proof.Machine.Claim

/-! ### Encoding -/

/-- 30_encoding.md R80, R81: decoding an encoded command gives it back. -/
def Obligations.DecodeOfEncodeIsIdentity : Prop := ∀ i : Instr, i.wf = true → decode (encode i) = .ok i

/-- 30_encoding.md R80, R83: over all 65536 words, a word decodes to a command exactly when it is that command's word,
and exactly when its three fields are those of a defined command. -/
def Obligations.DecodeAcceptsExactlyTheEncodedWords : Prop :=
  (∀ (w : Word) (i : Instr), decode w = .ok i ↔ w = encode i) ∧
  (∀ w : Word, (∃ i, decode w = .ok i) ↔
    (fieldsOfWord w).arg = 0#8 ∧
    (((fieldsOfWord w).unit = 0#4 ∧ (fieldsOfWord w).func.toNat < 2) ∨
     ((fieldsOfWord w).unit = 1#4 ∧ (fieldsOfWord w).func.toNat < 3) ∨
     (((fieldsOfWord w).unit = 2#4 ∨ (fieldsOfWord w).unit = 3#4) ∧
       1 ≤ (fieldsOfWord w).func.toNat ∧ (fieldsOfWord w).func.toNat < 3)))

/-- 30_encoding.md R81: the nine words of the opcode table, and some words that are none of them. -/
def Obligations.OpcodeTableWordsDecode : Prop :=
  [0x0000#16, 0x0100#16, 0x1000#16, 0x1100#16, 0x1200#16, 0x2100#16, 0x2200#16, 0x3100#16, 0x3200#16].map decode =
    [.ok .nop, .ok .clr, .ok .frame, .ok .frameCfg, .ok .frameBat, .ok .decCfg, .ok .decBat, .ok .enc1, .ok .enc2] ∧
  ∀ w ∈ [0x2000#16, 0x0200#16, 0x1300#16, 0x3000#16, 0x4000#16, 0xFFFF#16, 0x0001#16, 0x2101#16, 0x3300#16],
    (decode w).toOption = none

/-! ### The step -/

/-- 10_state.md R22, 20_memory.md R63: a step on a write of CMD whose word decodes to the command `i` is `exec i` at the
state in which CMD holds the word, followed by the response `ok` and the index moving on by one. -/
def Obligations.StepOnCommandWriteRunsTheDecodedCommand : Prop :=
  ∀ (s : State) (w : Word) (rest : List HostTxn) (i : Instr), Issues s (.regWrite 0x00 w) rest → decode w = .ok i →
    ∃ t, exec i { s with pending := rest, cmd := w } = .next t ∧
      step s = .next { t with position := t.position + 1, responses := .ok :: t.responses }

/-- 60_exceptions.md R205: a word that is none of the nine is stored in CMD, sets OK to 0 and ERR to 5 and changes
nothing else; the transaction itself is `ok`. -/
def Obligations.IllegalWordSetsCmdAndErrorFive : Prop :=
  ∀ (s : State) (w : Word) (rest : List HostTxn), Issues s (.regWrite 0x00 w) rest →
    w ∉ [0x0000#16, 0x0100#16, 0x1000#16, 0x1100#16, 0x1200#16, 0x2100#16, 0x2200#16, 0x3100#16, 0x3200#16] →
    ∃ st, step s = .next { s with
        cmd := w, status := st, pending := rest, position := s.position + 1, responses := .ok :: s.responses } ∧
      StatusAfter outcomeBits 5 s.status st

/-- 20_memory.md R61, 60_exceptions.md R213: with no transaction to come the block is idle and keeps all its state.
That an idle step answers the same state is the model's choice (log 1). -/
def Obligations.IdleBlockKeepsItsState : Prop := ∀ s : State, s.pending = [] → step s = .next s

/-- 60_exceptions.md R209, 70_reset_and_hazards.md R237: no error stops the block and every command terminates: every
step and every run of any length goes on, from every state. It rests on choices of the model: a step with no transaction
to come is an idle step, where R238 ends the run (log 1); a read of an unspecified byte or register draws a value, where
93_implementation_defined.md U1 to U3 allow a fault too (log 4, log 5), so there is no fault (log 13); a refused
transaction is a step, where 20_memory.md R66 allows none too (log 9). -/
def Obligations.NoStepAndNoRunEverStops : Prop :=
  (∀ s : State, ∃ t, step s = .next t) ∧ ∀ (k : Nat) (s : State), ∃ t, RunsTo k s t

/-- 10_state.md R24, 43_control.md R193: the index of a list of transactions advances by exactly 1 after every
transaction, whatever the transaction's outcome, and the transaction gets exactly one response. -/
def Obligations.EveryTransactionAdvancesTheIndexByOne : Prop :=
  ∀ (s : State) (x : HostTxn) (rest : List HostTxn), Issues s x rest →
    ∃ t r, step s = .next t ∧ t.pending = rest ∧ t.position = s.position + 1 ∧ t.responses = r :: s.responses

/-- 10_state.md R24: the index "is a device of the model, not state of the block, and the block cannot read it". Two
states with the same block (and the same free values) that issue the same transaction end with the same block and the
same response, whatever index, past responses and later transactions they have. -/
def Obligations.BlockCannotReadTheHostsSide : Prop :=
  ∀ (s s' : State) (x : HostTxn) (rest rest' : List HostTxn), s.block = s'.block → s.draws = s'.draws →
    Issues s x rest → Issues s' x rest' →
    ∃ t t', step s = .next t ∧ step s' = .next t' ∧ t.block = t'.block ∧ t.draws = t'.draws ∧
      t.responses.head? = t'.responses.head?

/-! ### Reset, NOP, CLR -/

/-- 10_state.md R39: the registers with a reset value have it, STATUS is 0, every register of the two result groups is
unspecified, no byte of any buffer has a value. (The stored values of the result registers are the model's, log 3:
nothing is said of them.) -/
def Obligations.ResetStateIsTheSpecs : Prop :=
  (∀ r ∈ [Reg.cmd, .status, .imgW, .imgH, .packLen, .rasLen, .rawLen, .pfxLen, .expLen, .payLen],
    State.reset.regValue r = 0#16) ∧
  State.reset.regValue .padLen = 3408#16 ∧ State.reset.regValue .padByte = 0x00FF#16 ∧
  (∀ r ∈ outputRegs .decCfg ++ outputRegs .decBat, State.reset.regSpecified r = false) ∧
  (∀ b i, State.reset.byte b i = none)

/-- 43_control.md R191: CLR leaves the block exactly as reset does, and nothing of the host's side moves but by the
transaction itself. Said of the command and of the write of its word 0x0100. That the stored values of the unspecified
result registers and the unlisted buffer bytes are those of `State.reset` is the model's choice (log 3, log 11). -/
def Obligations.ClrLeavesTheResetState : Prop :=
  (∀ s : State, ∃ t, exec .clr s = .next t ∧ t.block = State.reset.block ∧ t.pending = s.pending ∧
    t.position = s.position ∧ t.responses = s.responses) ∧
  (∀ (s : State) (rest : List HostTxn), Issues s (.regWrite 0x00 0x0100#16) rest →
    ∃ t, step s = .next t ∧ t.block = State.reset.block ∧ t.cmd = 0x0000#16 ∧ t.status = 0x0000#16 ∧
      t.padLen = 3408#16 ∧ t.padByte = 0xFF#8 ∧ ∀ b i, t.byte b i = none)

/-- 43_control.md R190: NOP changes nothing; the write of its word 0x0000, which is also the reset value of CMD, changes
CMD alone. -/
def Obligations.NopChangesNothingButCmd : Prop :=
  State.reset.cmd = encode .nop ∧ (∀ s : State, exec .nop s = .next s) ∧
  (∀ (s : State) (rest : List HostTxn), Issues s (.regWrite 0x00 0x0000#16) rest →
    ∃ t, step s = .next t ∧ OnlyAnswers { s with cmd := 0x0000#16 } rest .ok t)

/-! ### The host transactions -/

/-- 20_memory.md R62 with 10_state.md R35: RegRead returns the register's value, zero-extended, when it is specified,
some value of the register's width when it is not, and accerr when the number does not exist; it changes no state. -/
def Obligations.RegReadReturnsTheRegister : Prop :=
  ∀ (s : State) (n : Nat) (rest : List HostTxn), Issues s (.regRead n) rest →
    (regNumberExists n = false → ∃ t, step s = .next t ∧ OnlyAnswers s rest .accerr t) ∧
    (∀ r, regOfNumber n = some r → s.regSpecified r = true →
      ∃ t, step s = .next t ∧ OnlyAnswers s rest (.okWord (s.regValue r)) t) ∧
    (∀ r, regOfNumber n = some r → s.regSpecified r = false →
      ∃ t v, step s = .next t ∧ OnlyAnswers s rest (.okWord v) t ∧ v.toNat < 2 ^ regWidth r) ∧
    ∀ r, (s.regValue r).toNat < 2 ^ regWidth r

/-- 10_state.md R35: exactly when the value of each of the 27 registers is specified: a result register while its
group's VALID flag is 1, TMO_MIN and BAT_PCT while their KNOWN flag is 1 besides, the other twelve always. -/
def Obligations.ResultRegistersAreSpecifiedByTheirFlags : Prop :=
  ∀ s : State,
    (∀ r ∈ [Reg.dpi, .hwMaj, .hwMin, .hwPat, .fwMaj, .fwMin, .fwPat, .tmoRaw, .beepRaw, .beep],
      s.regSpecified r = true ↔ Status.cfgValid s.status = true) ∧
    (s.regSpecified .tmoMin = true ↔ Status.cfgValid s.status = true ∧ Status.tmoKnown s.status = true) ∧
    (∀ r ∈ [Reg.batRaw, .chgRaw, .chg], s.regSpecified r = true ↔ Status.batValid s.status = true) ∧
    (s.regSpecified .batPct = true ↔ Status.batValid s.status = true ∧ Status.batKnown s.status = true) ∧
    (∀ r ∈ [Reg.cmd, .status, .imgW, .imgH, .padLen, .padByte, .packLen, .rasLen, .rawLen, .pfxLen, .expLen, .payLen],
      s.regSpecified r = true)

/-- 20_memory.md R63: RegWrite stores the low W bits in an RW register, touches no other register, buffer or flag, and
answers `ok`; a write of CMD answers `ok` whatever the command's outcome; a number that does not exist or an RO register
is answered accerr and nothing changes. -/
def Obligations.RegWriteStoresTheLowBits : Prop :=
  ∀ (s : State) (n : Nat) (v : Word) (rest : List HostTxn), Issues s (.regWrite n v) rest →
    (regNumberWritable n = false → ∃ t, step s = .next t ∧ OnlyAnswers s rest .accerr t) ∧
    (∀ r, regOfNumber n = some r → regWritable r = true → r ≠ .cmd →
      ∃ t, step s = .next t ∧ (t.regValue r).toNat = v.toNat % 2 ^ regWidth r ∧
        (∀ q, q ≠ r → t.regValue q = s.regValue q) ∧ (∀ b i, t.byte b i = s.byte b i) ∧
        t.responses = .ok :: s.responses) ∧
    (n = 0x00 → ∃ t, step s = .next t ∧ t.responses = .ok :: s.responses ∧
      ∀ i, decode v = .ok i → ∃ u, exec i { s with pending := rest, cmd := v } = .next u ∧ t.block = u.block)

/-- 20_memory.md R64 with 10_state.md R30, R31: BufRead returns the byte where it has a value and lies in the buffer's
valid region, some byte where it has none (log 4) or lies outside (log 8), and accerr for an id or an index that does
not exist; it changes no state. -/
def Obligations.BufReadReturnsTheByte : Prop :=
  ∀ (s : State) (b i : Nat) (rest : List HostTxn), Issues s (.bufRead b i) rest →
    ((∀ c, capacityOfId b = some c → c ≤ i) → ∃ t, step s = .next t ∧ OnlyAnswers s rest .accerr t) ∧
    (∀ c, bufOfId b = some c → i < bufCapacity c → ∀ v, s.byte c i = some v → InValidRegion s c i →
      ∃ t, step s = .next t ∧ OnlyAnswers s rest (.okByte v) t) ∧
    (∀ c, bufOfId b = some c → i < bufCapacity c → (s.byte c i = none ∨ ¬ InValidRegion s c i) →
      ∃ t v, step s = .next t ∧ OnlyAnswers s rest (.okByte v) t)

/-- 20_memory.md R65: BufWrite sets one byte of PIX, RAW, PFX or PAY and changes no other byte, no length register and
no flag; a write of RAS, of a buffer that does not exist or at or beyond the capacity is accerr and changes nothing. -/
def Obligations.BufWriteSetsOneByte : Prop :=
  ∀ (s : State) (b i : Nat) (v : Byte) (rest : List HostTxn), Issues s (.bufWrite b i v) rest →
    ((b = 1 ∨ ∀ c, capacityOfId b = some c → c ≤ i) → ∃ t, step s = .next t ∧ OnlyAnswers s rest .accerr t) ∧
    (∀ c, bufOfId b = some c → c ≠ .ras → i < bufCapacity c →
      ∃ t, step s = .next t ∧ t.responses = .ok :: s.responses ∧ t.byte c i = some v ∧
        (∀ c' j, ¬ (c' = c ∧ j = i) → t.byte c' j = s.byte c' j) ∧ ∀ r, t.regValue r = s.regValue r)

/-- 20_memory.md R66: the refused transactions are exactly those of the table, and a refused transaction changes no state
whatever. -/
def Obligations.RefusedTransactionsChangeNothing : Prop :=
  ∀ (s : State) (x : HostTxn) (rest : List HostTxn), Issues s x rest →
    (x.wf = false → ∃ t, step s = .next t ∧ OnlyAnswers s rest .accerr t) ∧
    (x.wf = true → ∃ t r, step s = .next t ∧ t.responses = r :: s.responses ∧ r ≠ .accerr)

/-- 20_memory.md R65, R64, R74, 10_state.md R31, 70_reset_and_hazards.md R234: a byte the host has just written in the
valid region is the byte it reads back; outside the region the read completes with some byte, and the byte written is
the one read once the length register has been raised above it, in that order too (log 8). -/
def Obligations.HostReadsBackTheByteItWrote : Prop :=
  (∀ (s : State) (c : Buf) (i : Nat) (v : Byte) (rest : List HostTxn), c ≠ .ras → i < bufCapacity c →
    s.pending = .bufWrite (bufId c) i v :: .bufRead (bufId c) i :: rest →
    ∃ t u, RunsTo 2 s t ∧ t.responses = .okByte u :: .ok :: s.responses ∧ (InValidRegion s c i → u = v)) ∧
  (∀ (s : State) (c : Buf) (lenReg : Reg) (i : Nat) (v : Byte) (n : Word) (rest : List HostTxn),
    (c, lenReg) ∈ [(Buf.raw, Reg.rawLen), (.pfx, .pfxLen), (.pay, .payLen)] → i < bufCapacity c →
    i < n.toNat % 2 ^ regWidth lenReg →
    s.pending = .bufWrite (bufId c) i v :: .regWrite (regNumber lenReg) n :: .bufRead (bufId c) i :: rest →
    ∃ t, RunsTo 3 s t ∧ t.responses = .okByte v :: .ok :: .ok :: s.responses)

/-- 20_memory.md R63, R62, R74: an RW register but CMD reads back as the low W bits the host has just written. -/
def Obligations.HostReadsBackTheRegisterItWrote : Prop :=
  ∀ (s : State) (r : Reg) (v : Word) (rest : List HostTxn), regWritable r = true → r ≠ .cmd →
    s.pending = .regWrite (regNumber r) v :: .regRead (regNumber r) :: rest →
    ∃ t, RunsTo 2 s t ∧ t.responses = .okWord (BitVec.ofNat 16 (v.toNat % 2 ^ regWidth r)) :: .ok :: s.responses

/-- 20_memory.md R72, 10_state.md R21: 27 registers, each with its own number, and no other number exists. -/
def Obligations.RegisterNumbersAreTheTables : Prop :=
  (∀ r : Reg, regOfNumber (regNumber r) = some r) ∧
  ∀ n, (regOfNumber n).isSome = true ↔ (n ≤ 0x0B ∨ 0x10 ≤ n ∧ n ≤ 0x1E)

/-- 30_encoding.md R92: the pseudo-instruction `loadraw` leaves the listed bytes in RAW and their number in RAW_LEN, and
touches no other byte of RAW, no other buffer and no other register. -/
def Obligations.LoadrawLoadsTheResponse : Prop :=
  ∀ (s : State) (bytes : List Byte) (rest : List HostTxn), bytes.length ≤ 64 →
    s.pending = Script.loadraw bytes ++ rest →
    ∃ t, RunsTo (bytes.length + 1) s t ∧ t.pending = rest ∧ t.rawLen.toNat = bytes.length ∧
      (∀ i (h : i < bytes.length), t.byte .raw i = some bytes[i]) ∧
      (∀ i, bytes.length ≤ i → t.byte .raw i = s.byte .raw i) ∧
      (∀ c i, c ≠ .raw → t.byte c i = s.byte c i) ∧ ∀ r, r ≠ .rawLen → t.regValue r = s.regValue r

/-! ### The framer -/

/-- 40_framer.md R101, R102, R103: FRAME on a response with its prefix and a payload of EXP_LEN bytes. -/
def Obligations.FrameStripsPrefixAndTerminator : Prop :=
  ∀ s : State, s.rawLen.toNat ≤ 64 → s.pfxLen.toNat ≤ 16 →
    (∀ k, k < s.pfxLen.toNat → s.operandByte .raw k = s.operandByte .pfx k) →
    s.rawLen.toNat = s.pfxLen.toNat + s.expLen.toNat + 2 →
    ∃ t, exec .frame s = .next t ∧ Framed s t s.pfxLen.toNat s.expLen.toNat

/-- 40_framer.md R104: FRAME.CFG on a response of 19 bytes that starts with `CONFIG ` (PFX, PFX_LEN and EXP_LEN are not
looked at). -/
def Obligations.FrameCfgAcceptsConfigResponses : Prop :=
  ∀ s : State, s.rawLen.toNat = 19 →
    StartsWith s [0x43#8, 0x4F#8, 0x4E#8, 0x46#8, 0x49#8, 0x47#8, 0x20#8] →
    ∃ t, exec .frameCfg s = .next t ∧ Framed s t 7 10

/-- 40_framer.md R105: FRAME.BAT on a response of 12 bytes that starts with `BATTERY `. -/
def Obligations.FrameBatAcceptsBatteryResponses : Prop :=
  ∀ s : State, s.rawLen.toNat = 12 →
    StartsWith s [0x42#8, 0x41#8, 0x54#8, 0x54#8, 0x45#8, 0x52#8, 0x59#8, 0x20#8] →
    ∃ t, exec .frameBat s = .next t ∧ Framed s t 8 2

/-- 40_framer.md R106: the checks of the three framer commands in their order: BadConfig (code 6), then BadPrefix (1)
whatever the length, then BadLength (2); with what the error leaves (60_exceptions.md R206). -/
def Obligations.FramerReportsTheFirstFailingCheck : Prop :=
  ∀ (i : Instr) (s : State) (pfx : List Byte) (n : Nat), framerOperands i s = some (pfx, n) →
    (FramerMisconfigured i s → ∃ t, exec i s = .next t ∧ FrameFailed s t 6) ∧
    (¬ FramerMisconfigured i s → ¬ StartsWith s pfx → ∃ t, exec i s = .next t ∧ FrameFailed s t 1) ∧
    (¬ FramerMisconfigured i s → StartsWith s pfx → s.rawLen.toNat ≠ pfx.length + n + 2 →
      ∃ t, exec i s = .next t ∧ FrameFailed s t 2)

/-- 40_framer.md R107: the two removed bytes may be any bytes. Whatever is written over them, a framer command with a
prefix that leaves room for them ends with the same OK, ERR, PAY, PAY_LEN and everything else but TERMOK (and RAW, which
differs by what was written). -/
def Obligations.TerminatorValueDecidesOnlyTermok : Prop :=
  ∀ (i : Instr) (s : State) (pfx : List Byte) (n : Nat) (a b : Byte) (t : State),
    framerOperands i s = some (pfx, n) → pfx.length + 2 ≤ s.rawLen.toNat → exec i s = .next t →
    ∃ st, exec i { s with raw := (s.raw.write (s.rawLen.toNat - 2) a).write (s.rawLen.toNat - 1) b } =
        .next { t with raw := (s.raw.write (s.rawLen.toNat - 2) a).write (s.rawLen.toNat - 1) b, status := st } ∧
      StatusKept [1] t.status st

/-! ### The decoder -/

/-- 41_decoder.md R122, R123, R124 and R121: the classification functions on every byte. -/
def Obligations.ClassificationsOfEveryByte : Prop :=
  (∀ b0 b1 : Byte, be16 b0 b1 = 256 * b0.toNat + b1.toNat ∧ be16 b0 b1 < 65536) ∧
  (∀ b : Byte, bool3 b = if b.toNat = 0 then .isFalse else if b.toNat = 1 then .isTrue else .unknown) ∧
  (∀ b : Byte, timeoutMinutes b =
    if b.toNat = 0 then some 0 else if b.toNat = 1 then some 15 else if b.toNat = 2 then some 30
    else if b.toNat = 3 then some 60 else none) ∧
  (∀ b : Byte, batteryPercent b =
    if b.toNat / 16 ≤ 9 ∧ b.toNat % 16 ≤ 9 then some (10 * (b.toNat / 16) + b.toNat % 16) else none) ∧
  ((List.range 256).filter fun n => (batteryPercent (BitVec.ofNat 8 n)).isSome).length = 100

/-- 41_decoder.md R126: DEC.CFG on a payload of 10 bytes: every field of the record, the flags, and the frame. Where the
timeout byte is above 3, TMO_MIN is left open (log 6). -/
def Obligations.DecCfgDecodesTheConfigLayout : Prop :=
  ∀ s : State, s.payLen.toNat = 10 → ∃ t, exec .decCfg s = .next t ∧ OnlyConfigGroup s t ∧
    t.dpi.toNat = 256 * (s.operandByte .pay 0).toNat + (s.operandByte .pay 1).toNat ∧
    t.hwMaj = s.operandByte .pay 2 ∧ t.hwMin = s.operandByte .pay 3 ∧ t.hwPat = s.operandByte .pay 4 ∧
    t.fwMaj = s.operandByte .pay 5 ∧ t.fwMin = s.operandByte .pay 6 ∧ t.fwPat = s.operandByte .pay 7 ∧
    t.tmoRaw = s.operandByte .pay 8 ∧ (Status.tmoKnown t.status = true ↔ t.tmoRaw.toNat ≤ 3) ∧
    (t.tmoRaw = 0#8 → t.tmoMin = 0#8) ∧ (t.tmoRaw = 1#8 → t.tmoMin = 15#8) ∧
    (t.tmoRaw = 2#8 → t.tmoMin = 30#8) ∧ (t.tmoRaw = 3#8 → t.tmoMin = 60#8) ∧
    t.beepRaw = s.operandByte .pay 9 ∧ Bool3Agrees t.beepRaw t.beep ∧
    Status.cfgValid t.status = true ∧ StatusAfter (8 :: 10 :: outcomeBits) 0 s.status t.status

/-- 41_decoder.md R127: DEC.BAT on a payload of 2 bytes. Where a digit of the level byte is above 9, BAT_PCT is left
open (log 6). -/
def Obligations.DecBatDecodesTheBatteryLayout : Prop :=
  ∀ s : State, s.payLen.toNat = 2 → ∃ t, exec .decBat s = .next t ∧ OnlyBatteryGroup s t ∧
    t.batRaw = s.operandByte .pay 0 ∧
    (Status.batKnown t.status = true ↔ t.batRaw.toNat / 16 ≤ 9 ∧ t.batRaw.toNat % 16 ≤ 9) ∧
    (t.batRaw.toNat / 16 ≤ 9 → t.batRaw.toNat % 16 ≤ 9 →
      t.batPct.toNat = 10 * (t.batRaw.toNat / 16) + t.batRaw.toNat % 16) ∧
    t.chgRaw = s.operandByte .pay 1 ∧ Bool3Agrees t.chgRaw t.chg ∧
    Status.batValid t.status = true ∧ StatusAfter (9 :: 11 :: outcomeBits) 0 s.status t.status

/-- 41_decoder.md R128, R126, R127: on any other payload length, longer ones included, the DEC commands raise
LengthMismatch (code 3), decode nothing, and leave the group invalid; the other group, PAY and PAY_LEN do not change. -/
def Obligations.DecOfAnotherLengthIsLengthMismatch : Prop :=
  (∀ s : State, s.payLen.toNat ≠ 10 → ∃ t, exec .decCfg s = .next t ∧ OnlyConfigGroup s t ∧
    Status.cfgValid t.status = false ∧ Status.tmoKnown t.status = false ∧
    (∀ r ∈ outputRegs .decCfg, t.regSpecified r = false) ∧
    StatusAfter (8 :: 10 :: outcomeBits) 3 s.status t.status) ∧
  (∀ s : State, s.payLen.toNat ≠ 2 → ∃ t, exec .decBat s = .next t ∧ OnlyBatteryGroup s t ∧
    Status.batValid t.status = false ∧ Status.batKnown t.status = false ∧
    (∀ r ∈ outputRegs .decBat, t.regSpecified r = false) ∧
    StatusAfter (9 :: 11 :: outcomeBits) 3 s.status t.status)

/-- 41_decoder.md R132: for every 10-byte sequence `p`, loading `CONFIG ` ++ p ++ CR LF into RAW, then FRAME.CFG, then
DEC.CFG, recovers `p` from the registers: 22 transactions, from every state. -/
def Obligations.ConfigResponseRoundTrips : Prop :=
  ∀ (s : State) (p0 p1 p2 p3 p4 p5 p6 p7 p8 p9 : Byte) (rest : List HostTxn),
    s.pending = Script.loadraw
        ([0x43#8, 0x4F#8, 0x4E#8, 0x46#8, 0x49#8, 0x47#8, 0x20#8] ++ [p0, p1, p2, p3, p4, p5, p6, p7, p8, p9] ++
          [0x0D#8, 0x0A#8]) ++
      [.regWrite 0x00 0x1100#16, .regWrite 0x00 0x2100#16] ++ rest →
    ∃ t, RunsTo 22 s t ∧ t.pending = rest ∧ Status.ok t.status = true ∧ Status.cfgValid t.status = true ∧
      t.dpi.toNat = 256 * p0.toNat + p1.toNat ∧
      [(t.dpi.extractLsb' 8 8), (t.dpi.extractLsb' 0 8), t.hwMaj, t.hwMin, t.hwPat, t.fwMaj, t.fwMin, t.fwPat,
        t.tmoRaw, t.beepRaw] = [p0, p1, p2, p3, p4, p5, p6, p7, p8, p9]

/-! ### The raster unit -/

/-- 42_raster.md R152: the thresholds, and that the level is the top two bits of the byte. -/
def Obligations.QuantiserIsTheTopTwoBits : Prop :=
  ∀ p : Byte, quant2 p = p.extractLsb' 6 2 ∧
    (p.toNat < 64 → quant2 p = 0#2) ∧ (64 ≤ p.toNat → p.toNat < 128 → quant2 p = 1#2) ∧
    (128 ≤ p.toNat → p.toNat < 192 → quant2 p = 2#2) ∧ (192 ≤ p.toNat → quant2 p = 3#2)

/-- 42_raster.md R164, R151, R152, R155, R156, R157: ENC2 on a grid that fits: sample `n` stands in bits
`7 - 2*(n mod 4)` and `6 - 2*(n mod 4)` of byte `n div 4` and is the level of pixel `n`; every other bit is the pad
byte's. -/
def Obligations.Enc2PacksTheQuantisedGrid : Prop :=
  ∀ s : State, GridFits 2 s → ∃ t, exec .enc2 s = .next t ∧ Encoded 2 s t ∧
    ∀ n, n < s.imgW.toNat * s.imgH.toNat → ∃ v, t.byte .ras (n / 4) = some v ∧
      (v.extractLsb' (6 - 2 * (n % 4)) 2).toNat = (s.operandByte .pix n).toNat / 64

/-- 42_raster.md R163, R151, R155, R156, R157: ENC1 on a grid that fits: sample `n` stands in bit `7 - n mod 8` of byte
`n div 8` and is the dithered bit of pixel `n`; every other bit is the pad byte's. -/
def Obligations.Enc1PacksTheDitheredGrid : Prop :=
  ∀ s : State, GridFits 1 s → ∃ t, exec .enc1 s = .next t ∧ Encoded 1 s t ∧
    ∀ n, n < s.imgW.toNat * s.imgH.toNat → ∃ v d, t.byte .ras (n / 8) = some v ∧
      (dither s.imgW.toNat s.imgH.toNat (s.region .pix (s.imgW.toNat * s.imgH.toNat)))[n]? = some d ∧
      v.getLsbD (7 - n % 8) = d.getLsbD 0

/-- 42_raster.md R151: the checks of ENC1 and ENC2 in their order, on exact products: BadConfig (code 6) for a PAD_LEN
above 3408, else Oversize (code 4) for a packed length above PAD_LEN; with what the error leaves (60_exceptions.md
R206). -/
def Obligations.EncChecksInOrder : Prop :=
  ∀ (i : Instr) (bpp : Nat) (s : State), (i = .enc1 ∧ bpp = 1 ∨ i = .enc2 ∧ bpp = 2) →
    (3408 < s.padLen.toNat → ∃ t, exec i s = .next t ∧ EncodeFailed s t 6) ∧
    (s.padLen.toNat ≤ 3408 → s.padLen.toNat < (s.imgW.toNat * s.imgH.toNat * bpp + 7) / 8 →
      ∃ t, exec i s = .next t ∧ EncodeFailed s t 4)

/-- 42_raster.md R165: an ENC command never answers a truncated raster: if it ends with OK = 1 the whole packed grid
fits in the raster, and after an Oversize RAS_LEN is 0 and no byte of RAS is valid. -/
def Obligations.OversizeIsNeverTruncated : Prop :=
  ∀ (i : Instr) (bpp : Nat) (s t : State), (i = .enc1 ∧ bpp = 1 ∨ i = .enc2 ∧ bpp = 2) → exec i s = .next t →
    (Status.ok t.status = true →
      s.imgW.toNat * s.imgH.toNat * bpp ≤ 8 * t.packLen.toNat ∧ t.packLen.toNat ≤ t.rasLen.toNat) ∧
    ((Status.err t.status).toNat = 4 → t.rasLen = 0#16 ∧ ∀ k, t.byte .ras k = none)

/-- 42_raster.md R161: the binarisation (a) returns one bit per pixel, (c) gives all ones for an all-white grid, and
all zeros for an all-black one. -/
def Obligations.DitherKeepsWhiteAndBlack : Prop :=
  ∀ w h : Nat, (∀ g : List Byte, g.length = w * h → (dither w h g).length = w * h) ∧
    dither w h (List.replicate (w * h) 255#8) = List.replicate (w * h) 1#1 ∧
    dither w h (List.replicate (w * h) 0#8) = List.replicate (w * h) 0#1

/-- 42_raster.md R160: the bounds of the error-diffusion arithmetic, on every pixel and every accumulated error: `v` in
0 to 255, `e` in -127 to 127. -/
def Obligations.DitherErrorIsBounded : Prop :=
  ∀ (p : Byte) (err : Int), 0 ≤ ditherValue p err ∧ ditherValue p err ≤ 255 ∧
    -127 ≤ ditherError (ditherValue p err) ∧ ditherError (ditherValue p err) ≤ 127

/-- 42_raster.md R160: the scan over the whole error grid equals a row-by-row form that keeps two rows of errors
(a line buffer): the pushes to the right, below-left, below and below-right are the pulls of the row form. -/
def Obligations.DitherEqualsItsLineBufferForm : Prop :=
  ∀ (w h : Nat) (g : List Byte), g.length = w * h → dither w h g = ditherRows w [] h g

/-- 42_raster.md R161 (c), R157: an all-white grid of any size that fits, padded with white, encodes in 1-bit mode to
0xFF in every byte of the raster (for the reset padding and a 96 × 284 grid: 3408 bytes 0xFF). -/
def Obligations.WhiteImageEncodesToAllOnes : Prop :=
  ∀ s : State, GridFits 1 s → s.padByte = 0xFF#8 →
    (∀ n, n < s.imgW.toNat * s.imgH.toNat → s.operandByte .pix n = 255#8) →
    ∃ t, exec .enc1 s = .next t ∧ t.rasLen = s.padLen ∧ ∀ i, i < s.padLen.toNat → t.byte .ras i = some 0xFF#8

/-! ### Whole-machine rules -/

/-- 60_exceptions.md R202: which command can raise which error: NOP leaves STATUS alone, CLR leaves it 0, every other
command ends with OK = 1 and ERR = 0 or with OK = 0 and one of its own codes, and a word outside the table with
IllegalCommand. -/
def Obligations.CommandsRaiseOnlyTheirOwnErrors : Prop :=
  (∀ (i : Instr) (s t : State), exec i s = .next t →
    (i = .nop → t.status = s.status) ∧ (i = .clr → t.status = 0#16) ∧
    (i ≠ .nop → i ≠ .clr →
      (Status.ok t.status = true ∧ Status.err t.status = 0#4) ∨
      (Status.ok t.status = false ∧ ∃ e ∈ errorsOf i, Status.err t.status = errorNumber e))) ∧
  (∀ (s t : State) (w : Word) (rest : List HostTxn), Issues s (.regWrite 0x00 w) rest → (∀ i, w ≠ encode i) →
    step s = .next t → Status.ok t.status = false ∧ Status.err t.status = errorNumber .illegalCommand)

/-- 10_state.md R36: a command never changes a flag of another unit, TERMOK belongs to the framer, CFG_VALID and
TMO_KNOWN to DEC.CFG, BAT_VALID and BAT_KNOWN to DEC.BAT; OK and ERR to every command but NOP. -/
def Obligations.CommandsKeepTheFlagsOfOtherUnits : Prop :=
  ∀ (i : Instr) (s t : State), i ≠ .clr → exec i s = .next t → StatusKept (statusBitsOf i) s.status t.status

/-- 10_state.md R36, 30_encoding.md R82: the outcome of a command depends only on its operand registers and the bytes of
its input regions: from two states that agree on them (and on the free values) it ends with the same OK and ERR (but for
NOP), the same STATUS bits of its own, the same output registers and output buffers, whatever else differs, STATUS
included. -/
def Obligations.CommandsDependOnlyOnTheirOperands : Prop :=
  ∀ (i : Instr) (s s' : State), SameOperands i s s' →
    ∃ t t', exec i s = .next t ∧ exec i s' = .next t' ∧
      (∀ k ∈ statusBitsOf i, t.status.getLsbD k = t'.status.getLsbD k) ∧
      (∀ r ∈ outputRegs i, t.regValue r = t'.regValue r) ∧ (∀ b ∈ outputBufs i, t.buf b = t'.buf b)

/-- 10_state.md R38: no command modifies its own inputs; hence the same command twice, with no host write in between and
its inputs written, ends with the same STATUS, the same buffers and the same value of every specified register. -/
def Obligations.CommandsKeepInputsAndRepeat : Prop :=
  (∀ (i : Instr) (s t : State), i ≠ .clr → exec i s = .next t →
    (∀ r ∈ registersRead i, t.regValue r = s.regValue r) ∧
    (∀ bn ∈ regionsRead i s, ∀ k, t.byte bn.1 k = s.byte bn.1 k) ∧
    (∀ r ∈ [Reg.cmd, .imgW, .imgH, .padLen, .padByte, .rawLen, .pfxLen, .expLen], t.regValue r = s.regValue r)) ∧
  (∀ (i : Instr) (s t : State), InputsWritten i s → exec i s = .next t →
    ∃ u, exec i t = .next u ∧ u.status = t.status ∧ (∀ b k, u.byte b k = t.byte b k) ∧
      ∀ r, t.regSpecified r = true → u.regValue r = t.regValue r)

/-- 60_exceptions.md R207: a failed framer command leaves PAY_LEN = 0, so a DEC that follows fails with LengthMismatch;
and no error is sticky: the DEC's outcome replaces the framer's. -/
def Obligations.FailedFrameMakesTheNextDecodeFail : Prop :=
  ∀ (i d : Instr) (s t : State), i ∈ [Instr.frame, .frameCfg, .frameBat] → d ∈ [Instr.decCfg, .decBat] →
    exec i s = .next t → Status.ok t.status = false →
    t.payLen = 0#16 ∧ ∃ u, exec d t = .next u ∧ Status.ok u.status = false ∧ (Status.err u.status).toNat = 3

/-- 10_state.md R21, column "written by", R28 and R34: in one step a register changes only by the host's write of that
register, if it is RW, or by a command that the table names for it (CLR resets all; STATUS also takes the outcome of an
illegal word). -/
def Obligations.RegistersChangeOnlyByTheirWriters : Prop :=
  ∀ (s t : State) (r : Reg), step s = .next t → t.regValue r ≠ s.regValue r →
    ∃ rest, (regWritable r = true ∧ ∃ v, Issues s (.regWrite (regNumber r) v) rest) ∨
      (∃ i ∈ writersOfReg r, Issues s (.regWrite 0x00 (encode i)) rest) ∨
      (r = .status ∧ ∃ w, Issues s (.regWrite 0x00 w) rest ∧ ∀ i, w ≠ encode i)

/-- 10_state.md R30, columns host access and block access: in one step a byte of a buffer changes only by the host's
write of that byte, never of RAS, or by a command that the table names for the buffer (CLR clears all). -/
def Obligations.BufferBytesChangeOnlyByTheirWriters : Prop :=
  ∀ (s t : State) (b : Buf) (k : Nat), step s = .next t → t.byte b k ≠ s.byte b k →
    ∃ rest, (b ≠ .ras ∧ ∃ v, Issues s (.bufWrite (bufId b) k v) rest) ∨
      (∃ i ∈ writersOfBuf b, Issues s (.regWrite 0x00 (encode i)) rest)

/-! ### Invariants -/

/-- The invariants below hold at reset. -/
def Obligations.InvariantsHoldAtReset : Prop :=
  BuffersCanonical State.reset ∧ StatusLegal State.reset.status ∧ ConfigGroupDecoded State.reset ∧
  BatteryGroupDecoded State.reset ∧ RasterConsistent State.reset

/-- 10_state.md R30, 20_memory.md R79: every step keeps every buffer in its canonical form, with every index below the
capacity. -/
def Obligations.StepKeepsBuffersCanonical : Prop :=
  ∀ s t : State, BuffersCanonical s → step s = .next t → BuffersCanonical t

/-- 10_state.md R23, 60_exceptions.md R201: every step keeps STATUS legal: reserved bits 0, a code below 7, ERR 0 when
OK is 1, no KNOWN flag without its VALID flag. -/
def Obligations.StepKeepsStatusLegal : Prop :=
  ∀ s t : State, StatusLegal s.status → step s = .next t → StatusLegal t.status

/-- 10_state.md R23, R33, R34: every step keeps the two result groups decoded records while they are valid. -/
def Obligations.StepKeepsResultGroupsDecoded : Prop :=
  ∀ s t : State, ConfigGroupDecoded s → BatteryGroupDecoded s → step s = .next t →
    ConfigGroupDecoded t ∧ BatteryGroupDecoded t

/-- 42_raster.md R166, 10_state.md R29: every step keeps PACK_LEN, RAS_LEN and the valid region of RAS in agreement. -/
def Obligations.StepKeepsRasterConsistent : Prop :=
  ∀ s t : State, RasterConsistent s → step s = .next t → RasterConsistent t

/-! ### Reads -/

/-- 20_memory.md R71: "all reads are idempotent": a read, any reads after it, and the same read again: it returns the
same, whether its place is specified, unspecified or does not exist, and no register and no buffer has changed. -/
def Obligations.ReadsAreIdempotent : Prop :=
  ∀ (s : State) (x : HostTxn) (between rest : List HostTxn), IsRead x → (∀ y ∈ between, IsRead y) →
    s.pending = x :: between ++ x :: rest →
    ∃ t r l, RunsTo (between.length + 2) s t ∧ t.pending = rest ∧ t.responses = r :: l ++ r :: s.responses ∧
      l.length = between.length ∧ t.block = s.block
end

