-- ==== Sys2Proof/Laws/Flags.lean ====
section
/-! SUPPORT. What each bit of STATUS is after a field of it is replaced (10_state.md R23). -/

namespace Sys2Proof.Machine

/-- A replaced field reads as the new value inside and as before outside. -/
theorem getLsbD_setField {w n : Nat} (x : BitVec w) (lo : Nat) (v : BitVec n) (hw : lo + n ≤ w) (k : Nat) :
    (setField x lo v).getLsbD k = if lo ≤ k ∧ k < lo + n then v.getLsbD (k - lo) else x.getLsbD k := by
  unfold setField
  by_cases hk : k < w
  · by_cases h1 : lo ≤ k
    · by_cases h2 : k < lo + n
      · have h3 : k - lo < n := by omega
        have h4 : ¬ k < lo := by omega
        simp [hk, h1, h2, h3, h4]
      · have h3 : v.getLsbD (k - lo) = false := BitVec.getLsbD_of_ge v _ (by omega)
        have h4 : ¬ k < lo := by omega
        have h5 : ¬ k - lo < n := by omega
        simp [hk, h2, h3, h4, h5]
    · have h4 : k < lo := by omega
      simp [hk, h1, h4]
  · have hk' : w ≤ k := by omega
    have h2 : ¬ k < lo + n := by omega
    simp [hk, h2, BitVec.getLsbD_of_ge x k hk']

theorem errorNumber_injective {e f : ErrorCode} (h : errorNumber e = errorNumber f) : e = f := by
  cases e <;> cases f <;> simp_all [errorNumber]

namespace Status

@[simp] theorem getLsbD_setOk (w : Word) (b : Bool) (k : Nat) :
    (setOk w b).getLsbD k = if k = 0 then b else w.getLsbD k := by
  rw [setOk, getLsbD_setField _ _ _ (by decide)]
  by_cases h : k = 0
  · subst h; simp
  · have : ¬ k < 1 := by omega
    simp [h]

@[simp] theorem getLsbD_setTermok (w : Word) (b : Bool) (k : Nat) :
    (setTermok w b).getLsbD k = if k = 1 then b else w.getLsbD k := by
  rw [setTermok, getLsbD_setField _ _ _ (by decide)]
  by_cases h : k = 1
  · subst h; simp
  · have : ¬ (1 ≤ k ∧ k < 1 + 1) := by omega
    rw [if_neg this, if_neg h]

@[simp] theorem getLsbD_setErr (w : Word) (e : BitVec 4) (k : Nat) :
    (setErr w e).getLsbD k = if 4 ≤ k ∧ k < 8 then e.getLsbD (k - 4) else w.getLsbD k := by
  rw [setErr, getLsbD_setField _ _ _ (by decide)]

@[simp] theorem getLsbD_setCfgValid (w : Word) (b : Bool) (k : Nat) :
    (setCfgValid w b).getLsbD k = if k = 8 then b else w.getLsbD k := by
  rw [setCfgValid, getLsbD_setField _ _ _ (by decide)]
  by_cases h : k = 8
  · subst h; simp
  · have : ¬ (8 ≤ k ∧ k < 8 + 1) := by omega
    rw [if_neg this, if_neg h]

@[simp] theorem getLsbD_setBatValid (w : Word) (b : Bool) (k : Nat) :
    (setBatValid w b).getLsbD k = if k = 9 then b else w.getLsbD k := by
  rw [setBatValid, getLsbD_setField _ _ _ (by decide)]
  by_cases h : k = 9
  · subst h; simp
  · have : ¬ (9 ≤ k ∧ k < 9 + 1) := by omega
    rw [if_neg this, if_neg h]

@[simp] theorem getLsbD_setTmoKnown (w : Word) (b : Bool) (k : Nat) :
    (setTmoKnown w b).getLsbD k = if k = 10 then b else w.getLsbD k := by
  rw [setTmoKnown, getLsbD_setField _ _ _ (by decide)]
  by_cases h : k = 10
  · subst h; simp
  · have : ¬ (10 ≤ k ∧ k < 10 + 1) := by omega
    rw [if_neg this, if_neg h]

@[simp] theorem getLsbD_setBatKnown (w : Word) (b : Bool) (k : Nat) :
    (setBatKnown w b).getLsbD k = if k = 11 then b else w.getLsbD k := by
  rw [setBatKnown, getLsbD_setField _ _ _ (by decide)]
  by_cases h : k = 11
  · subst h; simp
  · have : ¬ (11 ≤ k ∧ k < 11 + 1) := by omega
    rw [if_neg this, if_neg h]

@[simp] theorem getLsbD_setOutcome (w : Word) (e : ErrorCode) (k : Nat) :
    (setOutcome w e).getLsbD k =
      if 4 ≤ k ∧ k < 8 then (errorNumber e).getLsbD (k - 4) else if k = 0 then e == .noError else w.getLsbD k := by
  simp [setOutcome]

/-- The ERR field after a replacement is the new code. -/
@[simp] theorem err_setErr (w : Word) (e : BitVec 4) : err (setErr w e) = e := by
  apply BitVec.eq_of_getLsbD_eq
  intro k hk
  have h2 : 4 + k < 8 := by omega
  simp [err, hk, h2]

@[simp] theorem err_setOutcome (w : Word) (e : ErrorCode) : err (setOutcome w e) = errorNumber e := by
  simp [setOutcome]

/-! ### Each flag after each replacement -/

@[simp] theorem ok_setOk (w : Word) (b : Bool) : ok (setOk w b) = b := by
  rw [ok, getLsbD_setOk]; rfl
@[simp] theorem ok_setTermok (w : Word) (b : Bool) : ok (setTermok w b) = ok w := by
  rw [ok, getLsbD_setTermok]; rfl
@[simp] theorem ok_setCfgValid (w : Word) (b : Bool) : ok (setCfgValid w b) = ok w := by
  rw [ok, getLsbD_setCfgValid]; rfl
@[simp] theorem ok_setBatValid (w : Word) (b : Bool) : ok (setBatValid w b) = ok w := by
  rw [ok, getLsbD_setBatValid]; rfl
@[simp] theorem ok_setTmoKnown (w : Word) (b : Bool) : ok (setTmoKnown w b) = ok w := by
  rw [ok, getLsbD_setTmoKnown]; rfl
@[simp] theorem ok_setBatKnown (w : Word) (b : Bool) : ok (setBatKnown w b) = ok w := by
  rw [ok, getLsbD_setBatKnown]; rfl
@[simp] theorem ok_setErr (w : Word) (e : BitVec 4) : ok (setErr w e) = ok w := by
  rw [ok, getLsbD_setErr]; rfl
@[simp] theorem ok_setOutcome (w : Word) (e : ErrorCode) : ok (setOutcome w e) = (e == .noError) := by
  rw [ok, getLsbD_setOutcome]; rfl
@[simp] theorem termok_setOk (w : Word) (b : Bool) : termok (setOk w b) = termok w := by
  rw [termok, getLsbD_setOk]; rfl
@[simp] theorem termok_setTermok (w : Word) (b : Bool) : termok (setTermok w b) = b := by
  rw [termok, getLsbD_setTermok]; rfl
@[simp] theorem termok_setCfgValid (w : Word) (b : Bool) : termok (setCfgValid w b) = termok w := by
  rw [termok, getLsbD_setCfgValid]; rfl
@[simp] theorem termok_setBatValid (w : Word) (b : Bool) : termok (setBatValid w b) = termok w := by
  rw [termok, getLsbD_setBatValid]; rfl
@[simp] theorem termok_setTmoKnown (w : Word) (b : Bool) : termok (setTmoKnown w b) = termok w := by
  rw [termok, getLsbD_setTmoKnown]; rfl
@[simp] theorem termok_setBatKnown (w : Word) (b : Bool) : termok (setBatKnown w b) = termok w := by
  rw [termok, getLsbD_setBatKnown]; rfl
@[simp] theorem termok_setErr (w : Word) (e : BitVec 4) : termok (setErr w e) = termok w := by
  rw [termok, getLsbD_setErr]; rfl
@[simp] theorem termok_setOutcome (w : Word) (e : ErrorCode) : termok (setOutcome w e) = termok w := by
  rw [termok, getLsbD_setOutcome]; rfl
@[simp] theorem cfgValid_setOk (w : Word) (b : Bool) : cfgValid (setOk w b) = cfgValid w := by
  rw [cfgValid, getLsbD_setOk]; rfl
@[simp] theorem cfgValid_setTermok (w : Word) (b : Bool) : cfgValid (setTermok w b) = cfgValid w := by
  rw [cfgValid, getLsbD_setTermok]; rfl
@[simp] theorem cfgValid_setCfgValid (w : Word) (b : Bool) : cfgValid (setCfgValid w b) = b := by
  rw [cfgValid, getLsbD_setCfgValid]; rfl
@[simp] theorem cfgValid_setBatValid (w : Word) (b : Bool) : cfgValid (setBatValid w b) = cfgValid w := by
  rw [cfgValid, getLsbD_setBatValid]; rfl
@[simp] theorem cfgValid_setTmoKnown (w : Word) (b : Bool) : cfgValid (setTmoKnown w b) = cfgValid w := by
  rw [cfgValid, getLsbD_setTmoKnown]; rfl
@[simp] theorem cfgValid_setBatKnown (w : Word) (b : Bool) : cfgValid (setBatKnown w b) = cfgValid w := by
  rw [cfgValid, getLsbD_setBatKnown]; rfl
@[simp] theorem cfgValid_setErr (w : Word) (e : BitVec 4) : cfgValid (setErr w e) = cfgValid w := by
  rw [cfgValid, getLsbD_setErr]; rfl
@[simp] theorem cfgValid_setOutcome (w : Word) (e : ErrorCode) : cfgValid (setOutcome w e) = cfgValid w := by
  rw [cfgValid, getLsbD_setOutcome]; rfl
@[simp] theorem batValid_setOk (w : Word) (b : Bool) : batValid (setOk w b) = batValid w := by
  rw [batValid, getLsbD_setOk]; rfl
@[simp] theorem batValid_setTermok (w : Word) (b : Bool) : batValid (setTermok w b) = batValid w := by
  rw [batValid, getLsbD_setTermok]; rfl
@[simp] theorem batValid_setCfgValid (w : Word) (b : Bool) : batValid (setCfgValid w b) = batValid w := by
  rw [batValid, getLsbD_setCfgValid]; rfl
@[simp] theorem batValid_setBatValid (w : Word) (b : Bool) : batValid (setBatValid w b) = b := by
  rw [batValid, getLsbD_setBatValid]; rfl
@[simp] theorem batValid_setTmoKnown (w : Word) (b : Bool) : batValid (setTmoKnown w b) = batValid w := by
  rw [batValid, getLsbD_setTmoKnown]; rfl
@[simp] theorem batValid_setBatKnown (w : Word) (b : Bool) : batValid (setBatKnown w b) = batValid w := by
  rw [batValid, getLsbD_setBatKnown]; rfl
@[simp] theorem batValid_setErr (w : Word) (e : BitVec 4) : batValid (setErr w e) = batValid w := by
  rw [batValid, getLsbD_setErr]; rfl
@[simp] theorem batValid_setOutcome (w : Word) (e : ErrorCode) : batValid (setOutcome w e) = batValid w := by
  rw [batValid, getLsbD_setOutcome]; rfl
@[simp] theorem tmoKnown_setOk (w : Word) (b : Bool) : tmoKnown (setOk w b) = tmoKnown w := by
  rw [tmoKnown, getLsbD_setOk]; rfl
@[simp] theorem tmoKnown_setTermok (w : Word) (b : Bool) : tmoKnown (setTermok w b) = tmoKnown w := by
  rw [tmoKnown, getLsbD_setTermok]; rfl
@[simp] theorem tmoKnown_setCfgValid (w : Word) (b : Bool) : tmoKnown (setCfgValid w b) = tmoKnown w := by
  rw [tmoKnown, getLsbD_setCfgValid]; rfl
@[simp] theorem tmoKnown_setBatValid (w : Word) (b : Bool) : tmoKnown (setBatValid w b) = tmoKnown w := by
  rw [tmoKnown, getLsbD_setBatValid]; rfl
@[simp] theorem tmoKnown_setTmoKnown (w : Word) (b : Bool) : tmoKnown (setTmoKnown w b) = b := by
  rw [tmoKnown, getLsbD_setTmoKnown]; rfl
@[simp] theorem tmoKnown_setBatKnown (w : Word) (b : Bool) : tmoKnown (setBatKnown w b) = tmoKnown w := by
  rw [tmoKnown, getLsbD_setBatKnown]; rfl
@[simp] theorem tmoKnown_setErr (w : Word) (e : BitVec 4) : tmoKnown (setErr w e) = tmoKnown w := by
  rw [tmoKnown, getLsbD_setErr]; rfl
@[simp] theorem tmoKnown_setOutcome (w : Word) (e : ErrorCode) : tmoKnown (setOutcome w e) = tmoKnown w := by
  rw [tmoKnown, getLsbD_setOutcome]; rfl
@[simp] theorem batKnown_setOk (w : Word) (b : Bool) : batKnown (setOk w b) = batKnown w := by
  rw [batKnown, getLsbD_setOk]; rfl
@[simp] theorem batKnown_setTermok (w : Word) (b : Bool) : batKnown (setTermok w b) = batKnown w := by
  rw [batKnown, getLsbD_setTermok]; rfl
@[simp] theorem batKnown_setCfgValid (w : Word) (b : Bool) : batKnown (setCfgValid w b) = batKnown w := by
  rw [batKnown, getLsbD_setCfgValid]; rfl
@[simp] theorem batKnown_setBatValid (w : Word) (b : Bool) : batKnown (setBatValid w b) = batKnown w := by
  rw [batKnown, getLsbD_setBatValid]; rfl
@[simp] theorem batKnown_setTmoKnown (w : Word) (b : Bool) : batKnown (setTmoKnown w b) = batKnown w := by
  rw [batKnown, getLsbD_setTmoKnown]; rfl
@[simp] theorem batKnown_setBatKnown (w : Word) (b : Bool) : batKnown (setBatKnown w b) = b := by
  rw [batKnown, getLsbD_setBatKnown]; rfl
@[simp] theorem batKnown_setErr (w : Word) (e : BitVec 4) : batKnown (setErr w e) = batKnown w := by
  rw [batKnown, getLsbD_setErr]; rfl
@[simp] theorem batKnown_setOutcome (w : Word) (e : ErrorCode) : batKnown (setOutcome w e) = batKnown w := by
  rw [batKnown, getLsbD_setOutcome]; rfl

/-- ERR only sees bits 7:4. -/
theorem err_congr {w w' : Word} (h : ∀ k, 4 ≤ k → k < 8 → w.getLsbD k = w'.getLsbD k) : err w = err w' := by
  apply BitVec.eq_of_getLsbD_eq
  intro k hk
  simpa [err, hk] using h (4 + k) (by omega) (by omega)

@[simp] theorem err_setOk (w : Word) (b : Bool) : err (setOk w b) = err w :=
  err_congr fun k h1 h2 => by rw [getLsbD_setOk, if_neg (by omega)]
@[simp] theorem err_setTermok (w : Word) (b : Bool) : err (setTermok w b) = err w :=
  err_congr fun k h1 h2 => by rw [getLsbD_setTermok, if_neg (by omega)]
@[simp] theorem err_setCfgValid (w : Word) (b : Bool) : err (setCfgValid w b) = err w :=
  err_congr fun k h1 h2 => by rw [getLsbD_setCfgValid, if_neg (by omega)]
@[simp] theorem err_setBatValid (w : Word) (b : Bool) : err (setBatValid w b) = err w :=
  err_congr fun k h1 h2 => by rw [getLsbD_setBatValid, if_neg (by omega)]
@[simp] theorem err_setTmoKnown (w : Word) (b : Bool) : err (setTmoKnown w b) = err w :=
  err_congr fun k h1 h2 => by rw [getLsbD_setTmoKnown, if_neg (by omega)]
@[simp] theorem err_setBatKnown (w : Word) (b : Bool) : err (setBatKnown w b) = err w :=
  err_congr fun k h1 h2 => by rw [getLsbD_setBatKnown, if_neg (by omega)]

end Status

end Sys2Proof.Machine
end

