-- ==== Sys2Proof/Laws/Memory.lean ====
section
/-! SUPPORT. The laws of a buffer: read after write, what `ofBytes` holds, and that every operation keeps the canonical
form. -/

namespace Sys2Proof.Machine

@[simp] theorem Mem.read_nil (i : Nat) : Mem.read [] i = none := rfl

/-- A write of a buffer in canonical form is seen at its index and nowhere else. -/
theorem Mem.read_write (m : Mem) (hm : m.Pairwise (fun a b => a.1 < b.1)) (i k : Nat) (v : Byte) :
    (m.write i v).read k = if k = i then some v else m.read k := by
  induction m with
  | nil => by_cases h : k = i <;> simp [Mem.write, Mem.read, h]
  | cons c rest ih =>
    obtain ⟨j, u⟩ := c
    obtain ⟨hj, hr⟩ := List.pairwise_cons.mp hm
    by_cases h1 : i < j
    · by_cases h : k = i <;> simp [Mem.write, Mem.read, h1, h]
    · by_cases h2 : i = j
      · subst h2
        by_cases h : k = i <;> simp [Mem.write, Mem.read, h]
      · by_cases h : k = j
        · subst h
          have : ¬ k = i := fun e => h2 e.symm
          simp [Mem.write, Mem.read, h1, h2, this]
        · simp [Mem.write, Mem.read, h1, h2, h, ih hr]

/-- The same without the canonical form, at the written index. -/
@[simp] theorem Mem.read_write_self (m : Mem) (i : Nat) (v : Byte) : (m.write i v).read i = some v := by
  induction m with
  | nil => simp [Mem.write, Mem.read]
  | cons c rest ih =>
    obtain ⟨j, u⟩ := c
    by_cases h1 : i < j
    · simp [Mem.write, Mem.read, h1]
    · by_cases h2 : i = j
      · simp [Mem.write, Mem.read, h2]
      · simp [Mem.write, Mem.read, h1, h2, ih]

/-- The same without the canonical form, at every other index. -/
theorem Mem.read_write_ne (m : Mem) {i k : Nat} (v : Byte) (h : k ≠ i) : (m.write i v).read k = m.read k := by
  induction m with
  | nil => simp [Mem.write, Mem.read, h]
  | cons c rest ih =>
    obtain ⟨j, u⟩ := c
    by_cases h1 : i < j
    · simp [Mem.write, Mem.read, h1, h]
    · by_cases h2 : i = j
      · subst h2; simp [Mem.write, Mem.read, h]
      · by_cases h3 : k = j <;> simp [Mem.write, Mem.read, h1, h2, h3, ih]

/-- The indices of a buffer after a write: the written one and those before. -/
theorem Mem.mem_write {m : Mem} {i : Nat} {v : Byte} {c : Host.Cell} (h : c ∈ m.write i v) : c = (i, v) ∨ c ∈ m := by
  induction m with
  | nil => simpa [Mem.write] using h
  | cons d rest ih =>
    obtain ⟨j, u⟩ := d
    unfold Mem.write at h
    split at h
    · simpa using h
    · split at h
      · rcases List.mem_cons.mp h with h | h
        · exact .inl h
        · exact .inr (List.mem_cons_of_mem _ h)
      · rcases List.mem_cons.mp h with h | h
        · exact .inr (by simp [h])
        · exact (ih h).imp_right (List.mem_cons_of_mem _)

/-- A write below the capacity keeps the canonical form. -/
theorem Mem.wf_write {cap : Nat} {m : Mem} (hm : Mem.wf cap m) {i : Nat} (hi : i < cap) (v : Byte) :
    Mem.wf cap (m.write i v) := by
  refine ⟨?_, fun c hc => ?_⟩
  · have hp := hm.1
    clear hm hi
    induction m with
    | nil => simp [Mem.write]
    | cons d rest ih =>
      obtain ⟨j, u⟩ := d
      obtain ⟨hj, hr⟩ := List.pairwise_cons.mp hp
      unfold Mem.write
      split
      · rename_i h1
        refine List.pairwise_cons.mpr ⟨fun c hc => ?_, hp⟩
        rcases List.mem_cons.mp hc with h | h
        · simpa [h] using h1
        · exact lt_trans h1 (hj c h)
      · rename_i h1
        split
        · rename_i h2
          exact List.pairwise_cons.mpr ⟨fun c hc => by simpa [h2] using hj c hc, hr⟩
        · rename_i h2
          refine List.pairwise_cons.mpr ⟨fun c hc => ?_, ih hr⟩
          rcases Mem.mem_write hc with h | h
          · subst h; show j < i; omega
          · exact hj c h
  · rcases Mem.mem_write hc with h | h
    · simpa [h] using hi
    · exact hm.2 c h

theorem Mem.read_ofBytesFrom (bytes : List Byte) (start i : Nat) :
    (Mem.ofBytesFrom start bytes).read i = if i < start then none else bytes[i - start]? := by
  induction bytes generalizing start with
  | nil => simp [Mem.ofBytesFrom]
  | cons b rest ih =>
    by_cases h : i = start
    · subst h; simp [Mem.ofBytesFrom, Mem.read]
    · by_cases h1 : i < start
      · have : i < start + 1 := by omega
        simp [Mem.ofBytesFrom, Mem.read, h, ih, h1, this]
      · have h2 : ¬ i < start + 1 := by omega
        have h3 : i - start = (i - (start + 1)) + 1 := by omega
        simp [Mem.ofBytesFrom, Mem.read, h, ih, h1, h2, h3]

/-- A buffer made of bytes holds them from index 0 on and nothing else. -/
@[simp] theorem Mem.read_ofBytes (bytes : List Byte) (i : Nat) : (Mem.ofBytes bytes).read i = bytes[i]? := by
  simp [Mem.ofBytes, Mem.read_ofBytesFrom]

theorem Mem.mem_ofBytesFrom {bytes : List Byte} {start : Nat} {c : Host.Cell} (h : c ∈ Mem.ofBytesFrom start bytes) :
    start ≤ c.1 ∧ c.1 < start + bytes.length := by
  induction bytes generalizing start with
  | nil => simp [Mem.ofBytesFrom] at h
  | cons b rest ih =>
    rcases List.mem_cons.mp h with h | h
    · subst h; simp
    · have := ih h
      simp only [List.length_cons]
      omega

theorem Mem.pairwise_ofBytesFrom (bytes : List Byte) (start : Nat) :
    (Mem.ofBytesFrom start bytes).Pairwise (fun a b => a.1 < b.1) := by
  induction bytes generalizing start with
  | nil => simp [Mem.ofBytesFrom]
  | cons b rest ih =>
    refine List.pairwise_cons.mpr ⟨fun c hc => ?_, ih (start + 1)⟩
    have := (Mem.mem_ofBytesFrom hc).1
    show start < c.1
    omega

/-- A buffer made of at most `cap` bytes has the canonical form. -/
theorem Mem.wf_ofBytes {cap : Nat} {bytes : List Byte} (h : bytes.length ≤ cap) : Mem.wf cap (Mem.ofBytes bytes) :=
  ⟨Mem.pairwise_ofBytesFrom bytes 0, fun c hc => by have := (Mem.mem_ofBytesFrom hc).2; omega⟩

/-- A buffer in which nothing has a value has the canonical form. -/
@[simp] theorem Mem.wf_nil (cap : Nat) : Mem.wf cap [] := ⟨List.Pairwise.nil, by simp⟩

@[simp] theorem State.length_region (s : State) (b : Buf) (n : Nat) : (s.region b n).length = n := by
  simp [State.region]

/-- Byte `i` of a region read by a command. -/
theorem State.getElem?_region (s : State) (b : Buf) (n i : Nat) :
    (s.region b n)[i]? = if i < n then some (s.operandByte b i) else none := by
  by_cases h : i < n <;> simp [State.region, h]

/-- Two regions are equal when the commands find the same bytes in them. -/
theorem State.region_congr {s t : State} {b : Buf} {n : Nat} (h : ∀ i < n, s.operandByte b i = t.operandByte b i) :
    s.region b n = t.region b n :=
  List.map_congr_left fun i hi => h i (List.mem_range.mp hi)

end Sys2Proof.Machine
end

