-- ==== Sys2Proof/Laws/State.lean ====
section
/-! SUPPORT. One lemma per field per update of the state, so that no proof unfolds a record update. -/

namespace Sys2Proof.Machine

/-! ### respond -/

@[simp] theorem State.respond_cmd (s : State) (r : Response) : (s.respond r).cmd = s.cmd := rfl
@[simp] theorem State.respond_status (s : State) (r : Response) : (s.respond r).status = s.status := rfl
@[simp] theorem State.respond_imgW (s : State) (r : Response) : (s.respond r).imgW = s.imgW := rfl
@[simp] theorem State.respond_imgH (s : State) (r : Response) : (s.respond r).imgH = s.imgH := rfl
@[simp] theorem State.respond_padLen (s : State) (r : Response) : (s.respond r).padLen = s.padLen := rfl
@[simp] theorem State.respond_padByte (s : State) (r : Response) : (s.respond r).padByte = s.padByte := rfl
@[simp] theorem State.respond_packLen (s : State) (r : Response) : (s.respond r).packLen = s.packLen := rfl
@[simp] theorem State.respond_rasLen (s : State) (r : Response) : (s.respond r).rasLen = s.rasLen := rfl
@[simp] theorem State.respond_rawLen (s : State) (r : Response) : (s.respond r).rawLen = s.rawLen := rfl
@[simp] theorem State.respond_pfxLen (s : State) (r : Response) : (s.respond r).pfxLen = s.pfxLen := rfl
@[simp] theorem State.respond_expLen (s : State) (r : Response) : (s.respond r).expLen = s.expLen := rfl
@[simp] theorem State.respond_payLen (s : State) (r : Response) : (s.respond r).payLen = s.payLen := rfl
@[simp] theorem State.respond_dpi (s : State) (r : Response) : (s.respond r).dpi = s.dpi := rfl
@[simp] theorem State.respond_hwMaj (s : State) (r : Response) : (s.respond r).hwMaj = s.hwMaj := rfl
@[simp] theorem State.respond_hwMin (s : State) (r : Response) : (s.respond r).hwMin = s.hwMin := rfl
@[simp] theorem State.respond_hwPat (s : State) (r : Response) : (s.respond r).hwPat = s.hwPat := rfl
@[simp] theorem State.respond_fwMaj (s : State) (r : Response) : (s.respond r).fwMaj = s.fwMaj := rfl
@[simp] theorem State.respond_fwMin (s : State) (r : Response) : (s.respond r).fwMin = s.fwMin := rfl
@[simp] theorem State.respond_fwPat (s : State) (r : Response) : (s.respond r).fwPat = s.fwPat := rfl
@[simp] theorem State.respond_tmoRaw (s : State) (r : Response) : (s.respond r).tmoRaw = s.tmoRaw := rfl
@[simp] theorem State.respond_tmoMin (s : State) (r : Response) : (s.respond r).tmoMin = s.tmoMin := rfl
@[simp] theorem State.respond_beepRaw (s : State) (r : Response) : (s.respond r).beepRaw = s.beepRaw := rfl
@[simp] theorem State.respond_beep (s : State) (r : Response) : (s.respond r).beep = s.beep := rfl
@[simp] theorem State.respond_batRaw (s : State) (r : Response) : (s.respond r).batRaw = s.batRaw := rfl
@[simp] theorem State.respond_batPct (s : State) (r : Response) : (s.respond r).batPct = s.batPct := rfl
@[simp] theorem State.respond_chgRaw (s : State) (r : Response) : (s.respond r).chgRaw = s.chgRaw := rfl
@[simp] theorem State.respond_chg (s : State) (r : Response) : (s.respond r).chg = s.chg := rfl
@[simp] theorem State.respond_pix (s : State) (r : Response) : (s.respond r).pix = s.pix := rfl
@[simp] theorem State.respond_ras (s : State) (r : Response) : (s.respond r).ras = s.ras := rfl
@[simp] theorem State.respond_raw (s : State) (r : Response) : (s.respond r).raw = s.raw := rfl
@[simp] theorem State.respond_pfx (s : State) (r : Response) : (s.respond r).pfx = s.pfx := rfl
@[simp] theorem State.respond_pay (s : State) (r : Response) : (s.respond r).pay = s.pay := rfl
@[simp] theorem State.respond_pending (s : State) (r : Response) : (s.respond r).pending = s.pending := rfl
@[simp] theorem State.respond_position (s : State) (r : Response) : (s.respond r).position = s.position + 1 := rfl
@[simp] theorem State.respond_responses (s : State) (r : Response) : (s.respond r).responses = r :: s.responses := rfl
@[simp] theorem State.respond_draws (s : State) (r : Response) : (s.respond r).draws = s.draws := rfl

/-! ### nextDraw -/

@[simp] theorem State.nextDraw_cmd (s : State) : (s.nextDraw).cmd = s.cmd := rfl
@[simp] theorem State.nextDraw_status (s : State) : (s.nextDraw).status = s.status := rfl
@[simp] theorem State.nextDraw_imgW (s : State) : (s.nextDraw).imgW = s.imgW := rfl
@[simp] theorem State.nextDraw_imgH (s : State) : (s.nextDraw).imgH = s.imgH := rfl
@[simp] theorem State.nextDraw_padLen (s : State) : (s.nextDraw).padLen = s.padLen := rfl
@[simp] theorem State.nextDraw_padByte (s : State) : (s.nextDraw).padByte = s.padByte := rfl
@[simp] theorem State.nextDraw_packLen (s : State) : (s.nextDraw).packLen = s.packLen := rfl
@[simp] theorem State.nextDraw_rasLen (s : State) : (s.nextDraw).rasLen = s.rasLen := rfl
@[simp] theorem State.nextDraw_rawLen (s : State) : (s.nextDraw).rawLen = s.rawLen := rfl
@[simp] theorem State.nextDraw_pfxLen (s : State) : (s.nextDraw).pfxLen = s.pfxLen := rfl
@[simp] theorem State.nextDraw_expLen (s : State) : (s.nextDraw).expLen = s.expLen := rfl
@[simp] theorem State.nextDraw_payLen (s : State) : (s.nextDraw).payLen = s.payLen := rfl
@[simp] theorem State.nextDraw_dpi (s : State) : (s.nextDraw).dpi = s.dpi := rfl
@[simp] theorem State.nextDraw_hwMaj (s : State) : (s.nextDraw).hwMaj = s.hwMaj := rfl
@[simp] theorem State.nextDraw_hwMin (s : State) : (s.nextDraw).hwMin = s.hwMin := rfl
@[simp] theorem State.nextDraw_hwPat (s : State) : (s.nextDraw).hwPat = s.hwPat := rfl
@[simp] theorem State.nextDraw_fwMaj (s : State) : (s.nextDraw).fwMaj = s.fwMaj := rfl
@[simp] theorem State.nextDraw_fwMin (s : State) : (s.nextDraw).fwMin = s.fwMin := rfl
@[simp] theorem State.nextDraw_fwPat (s : State) : (s.nextDraw).fwPat = s.fwPat := rfl
@[simp] theorem State.nextDraw_tmoRaw (s : State) : (s.nextDraw).tmoRaw = s.tmoRaw := rfl
@[simp] theorem State.nextDraw_tmoMin (s : State) : (s.nextDraw).tmoMin = s.tmoMin := rfl
@[simp] theorem State.nextDraw_beepRaw (s : State) : (s.nextDraw).beepRaw = s.beepRaw := rfl
@[simp] theorem State.nextDraw_beep (s : State) : (s.nextDraw).beep = s.beep := rfl
@[simp] theorem State.nextDraw_batRaw (s : State) : (s.nextDraw).batRaw = s.batRaw := rfl
@[simp] theorem State.nextDraw_batPct (s : State) : (s.nextDraw).batPct = s.batPct := rfl
@[simp] theorem State.nextDraw_chgRaw (s : State) : (s.nextDraw).chgRaw = s.chgRaw := rfl
@[simp] theorem State.nextDraw_chg (s : State) : (s.nextDraw).chg = s.chg := rfl
@[simp] theorem State.nextDraw_pix (s : State) : (s.nextDraw).pix = s.pix := rfl
@[simp] theorem State.nextDraw_ras (s : State) : (s.nextDraw).ras = s.ras := rfl
@[simp] theorem State.nextDraw_raw (s : State) : (s.nextDraw).raw = s.raw := rfl
@[simp] theorem State.nextDraw_pfx (s : State) : (s.nextDraw).pfx = s.pfx := rfl
@[simp] theorem State.nextDraw_pay (s : State) : (s.nextDraw).pay = s.pay := rfl
@[simp] theorem State.nextDraw_pending (s : State) : (s.nextDraw).pending = s.pending := rfl
@[simp] theorem State.nextDraw_position (s : State) : (s.nextDraw).position = s.position := rfl
@[simp] theorem State.nextDraw_responses (s : State) : (s.nextDraw).responses = s.responses := rfl
@[simp] theorem State.nextDraw_draws (s : State) : (s.nextDraw).draws = s.draws + 1 := rfl

/-! ### recordOutcome -/

@[simp] theorem State.recordOutcome_cmd (s : State) (e : ErrorCode) : (s.recordOutcome e).cmd = s.cmd := rfl
@[simp] theorem State.recordOutcome_status (s : State) (e : ErrorCode) : (s.recordOutcome e).status = Status.setOutcome s.status e := rfl
@[simp] theorem State.recordOutcome_imgW (s : State) (e : ErrorCode) : (s.recordOutcome e).imgW = s.imgW := rfl
@[simp] theorem State.recordOutcome_imgH (s : State) (e : ErrorCode) : (s.recordOutcome e).imgH = s.imgH := rfl
@[simp] theorem State.recordOutcome_padLen (s : State) (e : ErrorCode) : (s.recordOutcome e).padLen = s.padLen := rfl
@[simp] theorem State.recordOutcome_padByte (s : State) (e : ErrorCode) : (s.recordOutcome e).padByte = s.padByte := rfl
@[simp] theorem State.recordOutcome_packLen (s : State) (e : ErrorCode) : (s.recordOutcome e).packLen = s.packLen := rfl
@[simp] theorem State.recordOutcome_rasLen (s : State) (e : ErrorCode) : (s.recordOutcome e).rasLen = s.rasLen := rfl
@[simp] theorem State.recordOutcome_rawLen (s : State) (e : ErrorCode) : (s.recordOutcome e).rawLen = s.rawLen := rfl
@[simp] theorem State.recordOutcome_pfxLen (s : State) (e : ErrorCode) : (s.recordOutcome e).pfxLen = s.pfxLen := rfl
@[simp] theorem State.recordOutcome_expLen (s : State) (e : ErrorCode) : (s.recordOutcome e).expLen = s.expLen := rfl
@[simp] theorem State.recordOutcome_payLen (s : State) (e : ErrorCode) : (s.recordOutcome e).payLen = s.payLen := rfl
@[simp] theorem State.recordOutcome_dpi (s : State) (e : ErrorCode) : (s.recordOutcome e).dpi = s.dpi := rfl
@[simp] theorem State.recordOutcome_hwMaj (s : State) (e : ErrorCode) : (s.recordOutcome e).hwMaj = s.hwMaj := rfl
@[simp] theorem State.recordOutcome_hwMin (s : State) (e : ErrorCode) : (s.recordOutcome e).hwMin = s.hwMin := rfl
@[simp] theorem State.recordOutcome_hwPat (s : State) (e : ErrorCode) : (s.recordOutcome e).hwPat = s.hwPat := rfl
@[simp] theorem State.recordOutcome_fwMaj (s : State) (e : ErrorCode) : (s.recordOutcome e).fwMaj = s.fwMaj := rfl
@[simp] theorem State.recordOutcome_fwMin (s : State) (e : ErrorCode) : (s.recordOutcome e).fwMin = s.fwMin := rfl
@[simp] theorem State.recordOutcome_fwPat (s : State) (e : ErrorCode) : (s.recordOutcome e).fwPat = s.fwPat := rfl
@[simp] theorem State.recordOutcome_tmoRaw (s : State) (e : ErrorCode) : (s.recordOutcome e).tmoRaw = s.tmoRaw := rfl
@[simp] theorem State.recordOutcome_tmoMin (s : State) (e : ErrorCode) : (s.recordOutcome e).tmoMin = s.tmoMin := rfl
@[simp] theorem State.recordOutcome_beepRaw (s : State) (e : ErrorCode) : (s.recordOutcome e).beepRaw = s.beepRaw := rfl
@[simp] theorem State.recordOutcome_beep (s : State) (e : ErrorCode) : (s.recordOutcome e).beep = s.beep := rfl
@[simp] theorem State.recordOutcome_batRaw (s : State) (e : ErrorCode) : (s.recordOutcome e).batRaw = s.batRaw := rfl
@[simp] theorem State.recordOutcome_batPct (s : State) (e : ErrorCode) : (s.recordOutcome e).batPct = s.batPct := rfl
@[simp] theorem State.recordOutcome_chgRaw (s : State) (e : ErrorCode) : (s.recordOutcome e).chgRaw = s.chgRaw := rfl
@[simp] theorem State.recordOutcome_chg (s : State) (e : ErrorCode) : (s.recordOutcome e).chg = s.chg := rfl
@[simp] theorem State.recordOutcome_pix (s : State) (e : ErrorCode) : (s.recordOutcome e).pix = s.pix := rfl
@[simp] theorem State.recordOutcome_ras (s : State) (e : ErrorCode) : (s.recordOutcome e).ras = s.ras := rfl
@[simp] theorem State.recordOutcome_raw (s : State) (e : ErrorCode) : (s.recordOutcome e).raw = s.raw := rfl
@[simp] theorem State.recordOutcome_pfx (s : State) (e : ErrorCode) : (s.recordOutcome e).pfx = s.pfx := rfl
@[simp] theorem State.recordOutcome_pay (s : State) (e : ErrorCode) : (s.recordOutcome e).pay = s.pay := rfl
@[simp] theorem State.recordOutcome_pending (s : State) (e : ErrorCode) : (s.recordOutcome e).pending = s.pending := rfl
@[simp] theorem State.recordOutcome_position (s : State) (e : ErrorCode) : (s.recordOutcome e).position = s.position := rfl
@[simp] theorem State.recordOutcome_responses (s : State) (e : ErrorCode) : (s.recordOutcome e).responses = s.responses := rfl
@[simp] theorem State.recordOutcome_draws (s : State) (e : ErrorCode) : (s.recordOutcome e).draws = s.draws := rfl

/-! ### withPending -/

@[simp] theorem State.withPending_cmd (s : State) (l : List HostTxn) : (s.withPending l).cmd = s.cmd := rfl
@[simp] theorem State.withPending_status (s : State) (l : List HostTxn) : (s.withPending l).status = s.status := rfl
@[simp] theorem State.withPending_imgW (s : State) (l : List HostTxn) : (s.withPending l).imgW = s.imgW := rfl
@[simp] theorem State.withPending_imgH (s : State) (l : List HostTxn) : (s.withPending l).imgH = s.imgH := rfl
@[simp] theorem State.withPending_padLen (s : State) (l : List HostTxn) : (s.withPending l).padLen = s.padLen := rfl
@[simp] theorem State.withPending_padByte (s : State) (l : List HostTxn) : (s.withPending l).padByte = s.padByte := rfl
@[simp] theorem State.withPending_packLen (s : State) (l : List HostTxn) : (s.withPending l).packLen = s.packLen := rfl
@[simp] theorem State.withPending_rasLen (s : State) (l : List HostTxn) : (s.withPending l).rasLen = s.rasLen := rfl
@[simp] theorem State.withPending_rawLen (s : State) (l : List HostTxn) : (s.withPending l).rawLen = s.rawLen := rfl
@[simp] theorem State.withPending_pfxLen (s : State) (l : List HostTxn) : (s.withPending l).pfxLen = s.pfxLen := rfl
@[simp] theorem State.withPending_expLen (s : State) (l : List HostTxn) : (s.withPending l).expLen = s.expLen := rfl
@[simp] theorem State.withPending_payLen (s : State) (l : List HostTxn) : (s.withPending l).payLen = s.payLen := rfl
@[simp] theorem State.withPending_dpi (s : State) (l : List HostTxn) : (s.withPending l).dpi = s.dpi := rfl
@[simp] theorem State.withPending_hwMaj (s : State) (l : List HostTxn) : (s.withPending l).hwMaj = s.hwMaj := rfl
@[simp] theorem State.withPending_hwMin (s : State) (l : List HostTxn) : (s.withPending l).hwMin = s.hwMin := rfl
@[simp] theorem State.withPending_hwPat (s : State) (l : List HostTxn) : (s.withPending l).hwPat = s.hwPat := rfl
@[simp] theorem State.withPending_fwMaj (s : State) (l : List HostTxn) : (s.withPending l).fwMaj = s.fwMaj := rfl
@[simp] theorem State.withPending_fwMin (s : State) (l : List HostTxn) : (s.withPending l).fwMin = s.fwMin := rfl
@[simp] theorem State.withPending_fwPat (s : State) (l : List HostTxn) : (s.withPending l).fwPat = s.fwPat := rfl
@[simp] theorem State.withPending_tmoRaw (s : State) (l : List HostTxn) : (s.withPending l).tmoRaw = s.tmoRaw := rfl
@[simp] theorem State.withPending_tmoMin (s : State) (l : List HostTxn) : (s.withPending l).tmoMin = s.tmoMin := rfl
@[simp] theorem State.withPending_beepRaw (s : State) (l : List HostTxn) : (s.withPending l).beepRaw = s.beepRaw := rfl
@[simp] theorem State.withPending_beep (s : State) (l : List HostTxn) : (s.withPending l).beep = s.beep := rfl
@[simp] theorem State.withPending_batRaw (s : State) (l : List HostTxn) : (s.withPending l).batRaw = s.batRaw := rfl
@[simp] theorem State.withPending_batPct (s : State) (l : List HostTxn) : (s.withPending l).batPct = s.batPct := rfl
@[simp] theorem State.withPending_chgRaw (s : State) (l : List HostTxn) : (s.withPending l).chgRaw = s.chgRaw := rfl
@[simp] theorem State.withPending_chg (s : State) (l : List HostTxn) : (s.withPending l).chg = s.chg := rfl
@[simp] theorem State.withPending_pix (s : State) (l : List HostTxn) : (s.withPending l).pix = s.pix := rfl
@[simp] theorem State.withPending_ras (s : State) (l : List HostTxn) : (s.withPending l).ras = s.ras := rfl
@[simp] theorem State.withPending_raw (s : State) (l : List HostTxn) : (s.withPending l).raw = s.raw := rfl
@[simp] theorem State.withPending_pfx (s : State) (l : List HostTxn) : (s.withPending l).pfx = s.pfx := rfl
@[simp] theorem State.withPending_pay (s : State) (l : List HostTxn) : (s.withPending l).pay = s.pay := rfl
@[simp] theorem State.withPending_pending (s : State) (l : List HostTxn) : (s.withPending l).pending = l := rfl
@[simp] theorem State.withPending_position (s : State) (l : List HostTxn) : (s.withPending l).position = s.position := rfl
@[simp] theorem State.withPending_responses (s : State) (l : List HostTxn) : (s.withPending l).responses = s.responses := rfl
@[simp] theorem State.withPending_draws (s : State) (l : List HostTxn) : (s.withPending l).draws = s.draws := rfl

/-! ### resetBlock -/

@[simp] theorem State.resetBlock_cmd (s : State) : (s.resetBlock).cmd = State.reset.cmd := rfl
@[simp] theorem State.resetBlock_status (s : State) : (s.resetBlock).status = State.reset.status := rfl
@[simp] theorem State.resetBlock_imgW (s : State) : (s.resetBlock).imgW = State.reset.imgW := rfl
@[simp] theorem State.resetBlock_imgH (s : State) : (s.resetBlock).imgH = State.reset.imgH := rfl
@[simp] theorem State.resetBlock_padLen (s : State) : (s.resetBlock).padLen = State.reset.padLen := rfl
@[simp] theorem State.resetBlock_padByte (s : State) : (s.resetBlock).padByte = State.reset.padByte := rfl
@[simp] theorem State.resetBlock_packLen (s : State) : (s.resetBlock).packLen = State.reset.packLen := rfl
@[simp] theorem State.resetBlock_rasLen (s : State) : (s.resetBlock).rasLen = State.reset.rasLen := rfl
@[simp] theorem State.resetBlock_rawLen (s : State) : (s.resetBlock).rawLen = State.reset.rawLen := rfl
@[simp] theorem State.resetBlock_pfxLen (s : State) : (s.resetBlock).pfxLen = State.reset.pfxLen := rfl
@[simp] theorem State.resetBlock_expLen (s : State) : (s.resetBlock).expLen = State.reset.expLen := rfl
@[simp] theorem State.resetBlock_payLen (s : State) : (s.resetBlock).payLen = State.reset.payLen := rfl
@[simp] theorem State.resetBlock_dpi (s : State) : (s.resetBlock).dpi = State.reset.dpi := rfl
@[simp] theorem State.resetBlock_hwMaj (s : State) : (s.resetBlock).hwMaj = State.reset.hwMaj := rfl
@[simp] theorem State.resetBlock_hwMin (s : State) : (s.resetBlock).hwMin = State.reset.hwMin := rfl
@[simp] theorem State.resetBlock_hwPat (s : State) : (s.resetBlock).hwPat = State.reset.hwPat := rfl
@[simp] theorem State.resetBlock_fwMaj (s : State) : (s.resetBlock).fwMaj = State.reset.fwMaj := rfl
@[simp] theorem State.resetBlock_fwMin (s : State) : (s.resetBlock).fwMin = State.reset.fwMin := rfl
@[simp] theorem State.resetBlock_fwPat (s : State) : (s.resetBlock).fwPat = State.reset.fwPat := rfl
@[simp] theorem State.resetBlock_tmoRaw (s : State) : (s.resetBlock).tmoRaw = State.reset.tmoRaw := rfl
@[simp] theorem State.resetBlock_tmoMin (s : State) : (s.resetBlock).tmoMin = State.reset.tmoMin := rfl
@[simp] theorem State.resetBlock_beepRaw (s : State) : (s.resetBlock).beepRaw = State.reset.beepRaw := rfl
@[simp] theorem State.resetBlock_beep (s : State) : (s.resetBlock).beep = State.reset.beep := rfl
@[simp] theorem State.resetBlock_batRaw (s : State) : (s.resetBlock).batRaw = State.reset.batRaw := rfl
@[simp] theorem State.resetBlock_batPct (s : State) : (s.resetBlock).batPct = State.reset.batPct := rfl
@[simp] theorem State.resetBlock_chgRaw (s : State) : (s.resetBlock).chgRaw = State.reset.chgRaw := rfl
@[simp] theorem State.resetBlock_chg (s : State) : (s.resetBlock).chg = State.reset.chg := rfl
@[simp] theorem State.resetBlock_pix (s : State) : (s.resetBlock).pix = State.reset.pix := rfl
@[simp] theorem State.resetBlock_ras (s : State) : (s.resetBlock).ras = State.reset.ras := rfl
@[simp] theorem State.resetBlock_raw (s : State) : (s.resetBlock).raw = State.reset.raw := rfl
@[simp] theorem State.resetBlock_pfx (s : State) : (s.resetBlock).pfx = State.reset.pfx := rfl
@[simp] theorem State.resetBlock_pay (s : State) : (s.resetBlock).pay = State.reset.pay := rfl
@[simp] theorem State.resetBlock_pending (s : State) : (s.resetBlock).pending = s.pending := rfl
@[simp] theorem State.resetBlock_position (s : State) : (s.resetBlock).position = s.position := rfl
@[simp] theorem State.resetBlock_responses (s : State) : (s.resetBlock).responses = s.responses := rfl
@[simp] theorem State.resetBlock_draws (s : State) : (s.resetBlock).draws = s.draws + 1 := rfl

/-! ### setBuf, buf, byte, block -/

@[simp] theorem State.buf_setBuf_self (s : State) (b : Buf) (m : Mem) : (s.setBuf b m).buf b = m := by cases b <;> rfl

theorem State.buf_setBuf_ne (s : State) {b c : Buf} (m : Mem) (h : c ≠ b) : (s.setBuf b m).buf c = s.buf c := by
  cases b <;> cases c <;> first | rfl | exact absurd rfl h

@[simp] theorem State.regValue_setBuf (s : State) (b : Buf) (m : Mem) (r : Reg) :
    (s.setBuf b m).regValue r = s.regValue r := by cases b <;> cases r <;> rfl

@[simp] theorem State.buf_respond (s : State) (x : Response) (b : Buf) : (s.respond x).buf b = s.buf b := by
  cases b <;> rfl

@[simp] theorem State.regValue_respond (s : State) (x : Response) (r : Reg) : (s.respond x).regValue r = s.regValue r := by
  cases r <;> rfl

@[simp] theorem State.buf_nextDraw (s : State) (b : Buf) : s.nextDraw.buf b = s.buf b := by cases b <;> rfl

@[simp] theorem State.regValue_nextDraw (s : State) (r : Reg) : s.nextDraw.regValue r = s.regValue r := by
  cases r <;> rfl

@[simp] theorem State.block_respond (s : State) (x : Response) : (s.respond x).block = s.block := rfl

@[simp] theorem State.block_withPending (s : State) (l : List HostTxn) : (s.withPending l).block = s.block := rfl

@[simp] theorem State.buf_withPending (s : State) (l : List HostTxn) (b : Buf) : (s.withPending l).buf b = s.buf b := by
  cases b <;> rfl

@[simp] theorem State.regValue_withPending (s : State) (l : List HostTxn) (r : Reg) :
    (s.withPending l).regValue r = s.regValue r := by cases r <;> rfl

@[simp] theorem State.block_nextDraw (s : State) : s.nextDraw.block = s.block := rfl

/-- A register that is written takes the low bits of the value. -/
theorem State.regValue_storeReg_self (s : State) {r : Reg} (h : regWritable r = true) (v : Word) :
    (s.storeReg r v).regValue r = (v.setWidth (regWidth r)).setWidth 16 := by
  cases r <;> first | (simp [regWritable] at h; done) | simp [State.storeReg, State.regValue, regWidth]

/-- Every other register keeps its value. -/
theorem State.regValue_storeReg_ne (s : State) {r q : Reg} (v : Word) (h : q ≠ r) :
    (s.storeReg r v).regValue q = s.regValue q := by
  cases r <;> cases q <;> first | rfl | exact absurd rfl h

@[simp] theorem State.buf_storeReg (s : State) (r : Reg) (v : Word) (b : Buf) : (s.storeReg r v).buf b = s.buf b := by
  cases r <;> cases b <;> rfl

end Sys2Proof.Machine
end

