-- ==== Sys2Proof/Laws/Ops.lean ====
section
/-! SUPPORT. What each shared operation can do, said once: framing, the raster checks, packing lengths, a command, a
transaction. -/

namespace Sys2Proof.Machine

/-! ### Framing -/

/-- `frame` succeeds exactly on a response with the prefix and the right length (40_framer.md R101). -/
theorem frameBytes_ok_iff {raw pfx : List Byte} {n : Nat} {payload : List Byte} {termok : Bool} :
    frameBytes raw pfx n = .ok (payload, termok) ↔
      raw.take pfx.length = pfx ∧ raw.length = pfx.length + n + 2 ∧
      payload = (raw.take (pfx.length + n)).drop pfx.length ∧
      termok = (raw.drop (pfx.length + n) == Config.terminator) := by
  unfold frameBytes
  simp only [Config.termLen]
  constructor
  · intro h
    split at h
    · cases h
    · rename_i h1
      push Not at h1
      split at h
      · cases h
      · rename_i h2
        split at h
        · cases h
        · rename_i h3
          push Not at h3
          simp only [List.length_drop, List.length_take] at h3
          have hn : raw.length - 2 = pfx.length + n := by omega
          cases h
          exact ⟨h1.2, by omega, by rw [hn], by rw [hn]⟩
  · rintro ⟨h1, h2, rfl, rfl⟩
    have hn : raw.length - 2 = pfx.length + n := by omega
    rw [if_neg (by push Not; exact ⟨by omega, h1⟩), if_neg (by omega), if_neg]
    · rw [hn]
    · simp only [List.length_drop, List.length_take, not_not]; omega

/-- `frame` fails with BadPrefix exactly when the response does not start with the prefix (40_framer.md R106). -/
theorem frameBytes_badPrefix {raw pfx : List Byte} {n : Nat} (h : raw.take pfx.length ≠ pfx) :
    frameBytes raw pfx n = .error .badPrefix := by
  unfold frameBytes
  exact if_pos (.inr h)

/-- With the prefix right, any other length is BadLength (40_framer.md R106). -/
theorem frameBytes_badLength {raw pfx : List Byte} {n : Nat} (h : raw.take pfx.length = pfx)
    (hn : raw.length ≠ pfx.length + n + 2) : frameBytes raw pfx n = .error .badLength := by
  have hp : pfx.length ≤ raw.length := by
    have := congrArg List.length h
    simp only [List.length_take] at this
    omega
  unfold frameBytes
  simp only [Config.termLen]
  rw [if_neg (by push Not; exact ⟨hp, h⟩)]
  split
  · rfl
  · rw [if_pos]
    simp only [List.length_drop, List.length_take]
    omega

/-- Every result of `frame`. -/
theorem frameBytes_cases (raw pfx : List Byte) (n : Nat) :
    frameBytes raw pfx n = .error .badPrefix ∨ frameBytes raw pfx n = .error .badLength ∨
    ∃ payload termok, frameBytes raw pfx n = .ok (payload, termok) ∧ payload.length = n ∧
      raw.length = pfx.length + n + 2 := by
  by_cases h : raw.take pfx.length = pfx
  · by_cases hn : raw.length = pfx.length + n + 2
    · refine .inr (.inr ⟨_, _, frameBytes_ok_iff.mpr ⟨h, hn, rfl, rfl⟩, ?_, hn⟩)
      simp only [List.length_drop, List.length_take]
      omega
    · exact .inr (.inl (frameBytes_badLength h hn))
  · exact .inl (frameBytes_badPrefix h)

/-- What a framer command past its capacity check can leave. -/
theorem State.frameWith_cases (s : State) (pfx : List Byte) (len : Word) :
    (∃ e ∈ [ErrorCode.badPrefix, .badLength], s.frameWith pfx len = s.raise .payload e) ∨
    ∃ payload termok, payload.length = len.toNat ∧ s.rawLen.toNat = pfx.length + len.toNat + 2 ∧
      s.frameWith pfx len = s.storePayload payload len termok := by
  rcases frameBytes_cases (s.region .raw s.rawLen.toNat) pfx len.toNat with h | h | ⟨p, t, h, hl, hr⟩
  · exact .inl ⟨.badPrefix, by simp, by simp [State.frameWith, h]⟩
  · exact .inl ⟨.badLength, by simp, by simp [State.frameWith, h]⟩
  · exact .inr ⟨p, t, hl, by simpa using hr, by simp [State.frameWith, h]⟩

/-! ### Decoding -/

/-- The config layout decodes from any ten bytes (41_decoder.md R125). -/
theorem State.decodeConfig_region (s : State) :
    decodeConfig (s.region .pay Config.lenConfig) = .ok
      { dpi := be16 (s.operandByte .pay 0) (s.operandByte .pay 1)
        hwMaj := s.operandByte .pay 2, hwMin := s.operandByte .pay 3, hwPat := s.operandByte .pay 4
        fwMaj := s.operandByte .pay 5, fwMin := s.operandByte .pay 6, fwPat := s.operandByte .pay 7
        tmoRaw := s.operandByte .pay 8, tmo := timeoutMinutes (s.operandByte .pay 8)
        beepRaw := s.operandByte .pay 9, beep := bool3 (s.operandByte .pay 9) } := rfl

/-- The battery layout decodes from any two bytes (41_decoder.md R125). -/
theorem State.decodeBattery_region (s : State) :
    decodeBattery (s.region .pay Config.lenBattery) = .ok
      { batRaw := s.operandByte .pay 0, bat := batteryPercent (s.operandByte .pay 0)
        chgRaw := s.operandByte .pay 1, chg := bool3 (s.operandByte .pay 1) } := rfl

/-! ### Raster -/

@[simp] theorem length_pack {bpp : Nat} (samples : List (BitVec bpp)) (fill : Byte) :
    (pack samples fill).length = ceilDiv (samples.length * bpp) 8 := by simp [pack]

/-- The padded raster has exactly the padded length (42_raster.md R157). -/
theorem length_pad {b : List Byte} {n : Nat} (fill : Byte) (h : b.length ≤ n) : (pad b n fill).length = n := by
  simp only [pad, List.length_append, List.length_replicate]
  omega

@[simp] theorem length_addError (errs : List Int) (i : Nat) (d : Int) : (addError errs i d).length = errs.length := by
  simp [addError]

/-- The scan gives one bit per pixel (42_raster.md R160). -/
@[simp] theorem length_ditherFrom (w h n : Nat) (errs : List Int) (g : List Byte) :
    (ditherFrom w h n errs g).length = g.length := by
  induction g generalizing n errs with
  | nil => rfl
  | cons p rest ih => simp [ditherFrom, ih]

/-- Every result of the raster checks (42_raster.md R151). -/
theorem rasterLength_cases (bpp : Nat) (s : State) :
    (∃ e ∈ [ErrorCode.badConfig, .oversize], rasterLength bpp s = .error e) ∨
    (rasterLength bpp s = .ok (ceilDiv (s.pixelCount * bpp) 8) ∧ s.padLen.toNat ≤ 3408 ∧
      ceilDiv (s.pixelCount * bpp) 8 ≤ s.padLen.toNat) := by
  unfold rasterLength
  split
  · exact .inl ⟨.badConfig, by simp, rfl⟩
  · rename_i h1
    split
    · exact .inl ⟨.oversize, by simp, rfl⟩
    · rename_i h2
      simp only [Config.rasCap] at h1
      exact .inr ⟨rfl, by omega, by omega⟩

/-! ### A command -/

/-- The output group that an error of a command invalidates (60_exceptions.md R206). -/
def outputGroupOf : Instr → OutputGroup
  | .nop | .clr => .nothing
  | .frame | .frameCfg | .frameBat => .payload
  | .decCfg => .config
  | .decBat => .battery
  | .enc1 | .enc2 => .raster

/-- What a command that ends without error leaves in the state, for each command. -/
def Completes (i : Instr) (s t : State) : Prop :=
  match i with
  | .nop => t = s
  | .clr => t = s.resetBlock
  | .frame | .frameCfg | .frameBat =>
    ∃ payload len termok, payload.length = len.toNat ∧ len.toNat ≤ 62 ∧ t = s.storePayload payload len termok
  | .decCfg => ∃ r, decodeConfig (s.region .pay Config.lenConfig) = .ok r ∧ t = s.storeConfig r
  | .decBat => ∃ r, decodeBattery (s.region .pay Config.lenBattery) = .ok r ∧ t = s.storeBattery r
  | .enc1 => t = s.storeRaster (ceilDiv (s.pixelCount * 1) 8) (pack s.samples1 s.padByte) ∧ s.padLen.toNat ≤ 3408 ∧
      ceilDiv (s.pixelCount * 1) 8 ≤ s.padLen.toNat
  | .enc2 => t = s.storeRaster (ceilDiv (s.pixelCount * 2) 8) (pack s.samples2 s.padByte) ∧ s.padLen.toNat ≤ 3408 ∧
      ceilDiv (s.pixelCount * 2) 8 ≤ s.padLen.toNat

theorem execFramer_cases {s : State} {pfx : List Byte} {len : Word} (hr : s.rawLen.toNat ≤ 64) :
    (∃ e ∈ [ErrorCode.badConfig, .badPrefix, .badLength], s.frameWith pfx len = s.raise .payload e) ∨
    ∃ payload l termok, payload.length = l.toNat ∧ l.toNat ≤ 62 ∧ s.frameWith pfx len = s.storePayload payload l termok := by
  rcases s.frameWith_cases pfx len with ⟨e, he, h⟩ | ⟨p, t, hp, hl, h⟩
  · exact .inl ⟨e, List.mem_cons_of_mem _ he, h⟩
  · exact .inr ⟨p, len, t, hp, by omega, h⟩

/-- Every command answers a next state: its own effect, or the error entry of one of its errors. -/
theorem exec_cases (i : Instr) (s : State) :
    ∃ t, exec i s = .next t ∧ ((∃ e ∈ errorsOf i, t = s.raise (outputGroupOf i) e) ∨ Completes i s t) := by
  cases i with
  | nop => exact ⟨s, rfl, .inr rfl⟩
  | clr => exact ⟨s.resetBlock, rfl, .inr rfl⟩
  | frame =>
    simp only [exec, execFrame, Config.rawCap, Config.pfxCap]
    split
    · exact ⟨_, rfl, .inl ⟨.badConfig, by simp [errorsOf], rfl⟩⟩
    · exact ⟨_, rfl, execFramer_cases (by omega)⟩
  | frameCfg =>
    simp only [exec, execFrameCfg, Config.rawCap]
    split
    · exact ⟨_, rfl, .inl ⟨.badConfig, by simp [errorsOf], rfl⟩⟩
    · exact ⟨_, rfl, execFramer_cases (by omega)⟩
  | frameBat =>
    simp only [exec, execFrameBat, Config.rawCap]
    split
    · exact ⟨_, rfl, .inl ⟨.badConfig, by simp [errorsOf], rfl⟩⟩
    · exact ⟨_, rfl, execFramer_cases (by omega)⟩
  | decCfg =>
    simp only [exec, execDecCfg]
    split
    · exact ⟨_, rfl, .inl ⟨.lengthMismatch, by simp [errorsOf], rfl⟩⟩
    · rw [s.decodeConfig_region]
      exact ⟨_, rfl, .inr ⟨_, s.decodeConfig_region, rfl⟩⟩
  | decBat =>
    simp only [exec, execDecBat]
    split
    · exact ⟨_, rfl, .inl ⟨.lengthMismatch, by simp [errorsOf], rfl⟩⟩
    · rw [s.decodeBattery_region]
      exact ⟨_, rfl, .inr ⟨_, s.decodeBattery_region, rfl⟩⟩
  | enc1 =>
    simp only [exec, execEnc1]
    rcases rasterLength_cases 1 s with ⟨e, he, h⟩ | ⟨h, h1, h2⟩
    · rw [h]; exact ⟨_, rfl, .inl ⟨e, he, rfl⟩⟩
    · rw [h]; exact ⟨_, rfl, .inr ⟨rfl, h1, h2⟩⟩
  | enc2 =>
    simp only [exec, execEnc2]
    rcases rasterLength_cases 2 s with ⟨e, he, h⟩ | ⟨h, h1, h2⟩
    · rw [h]; exact ⟨_, rfl, .inl ⟨e, he, rfl⟩⟩
    · rw [h]; exact ⟨_, rfl, .inr ⟨rfl, h1, h2⟩⟩

/-- The same read backwards: every way a command can have answered. -/
theorem exec_next_cases {i : Instr} {s t : State} (h : exec i s = .next t) :
    (∃ e ∈ errorsOf i, t = s.raise (outputGroupOf i) e) ∨ Completes i s t := by
  obtain ⟨u, hu, hc⟩ := exec_cases i s
  cases hu.symm.trans h
  exact hc

/-! ### The host's side -/

/-- The model's own fields that the host's transactions move: a command never touches them. -/
def SameHostSide (s t : State) : Prop :=
  t.pending = s.pending ∧ t.position = s.position ∧ t.responses = s.responses

theorem State.raise_host (s : State) (g : OutputGroup) (e : ErrorCode) : SameHostSide s (s.raise g e) := by
  cases g <;> exact ⟨rfl, rfl, rfl⟩

theorem State.setBuf_host (s : State) (b : Buf) (m : Mem) : SameHostSide s (s.setBuf b m) := by
  cases b <;> exact ⟨rfl, rfl, rfl⟩

theorem State.storeReg_host (s : State) (r : Reg) (v : Word) : SameHostSide s (s.storeReg r v) := by
  cases r <;> exact ⟨rfl, rfl, rfl⟩

/-- A command does not touch the host's side (10_state.md R24). -/
theorem exec_host {i : Instr} {s t : State} (h : exec i s = .next t) : SameHostSide s t := by
  rcases exec_next_cases h with ⟨e, -, rfl⟩ | hc
  · exact s.raise_host _ _
  · cases i <;> simp only [Completes] at hc
    case nop => subst hc; exact ⟨rfl, rfl, rfl⟩
    case clr => subst hc; exact ⟨rfl, rfl, rfl⟩
    case frame => obtain ⟨_, _, _, -, -, rfl⟩ := hc; exact ⟨rfl, rfl, rfl⟩
    case frameCfg => obtain ⟨_, _, _, -, -, rfl⟩ := hc; exact ⟨rfl, rfl, rfl⟩
    case frameBat => obtain ⟨_, _, _, -, -, rfl⟩ := hc; exact ⟨rfl, rfl, rfl⟩
    case decCfg => obtain ⟨_, -, rfl⟩ := hc; exact ⟨rfl, rfl, rfl⟩
    case decBat => obtain ⟨_, -, rfl⟩ := hc; exact ⟨rfl, rfl, rfl⟩
    case enc1 => obtain ⟨rfl, -, -⟩ := hc; exact ⟨rfl, rfl, rfl⟩
    case enc2 => obtain ⟨rfl, -, -⟩ := hc; exact ⟨rfl, rfl, rfl⟩

/-! ### What a host read finds -/

theorem State.hostReg_specified {s : State} {r : Reg} (h : s.regSpecified r = true) : s.hostReg r = s.regValue r :=
  if_pos h

theorem State.hostReg_unspecified {s : State} {r : Reg} (h : s.regSpecified r = false) : s.hostReg r = s.drawReg r := by
  simp [State.hostReg, h]

/-- A byte is specified exactly when it has a value and lies in the valid region (10_state.md R31). -/
theorem State.byteSpecified_iff {s : State} {b : Buf} {i : Nat} :
    s.byteSpecified b i = true ↔ (∃ v, s.byte b i = some v) ∧ i < s.validLength b := by
  simp [State.byteSpecified, Option.isSome_iff_exists]

theorem State.hostByte_specified {s : State} {b : Buf} {i : Nat} {v : Byte} (h : s.byte b i = some v)
    (hi : i < s.validLength b) : s.hostByte b i = v := by
  simp [State.hostByte, State.byteSpecified, State.operandByte, h, hi]

/-- What a host read finds depends on the block and the counter of free values, not on the host's side. -/
theorem State.hostReg_respond (s : State) (x : Response) (r : Reg) : (s.respond x).hostReg r = s.hostReg r := by
  cases r <;> rfl

theorem State.hostByte_respond (s : State) (x : Response) (b : Buf) (i : Nat) :
    (s.respond x).hostByte b i = s.hostByte b i := by cases b <;> rfl

theorem State.hostReg_withPending (s : State) (l : List HostTxn) (r : Reg) :
    (s.withPending l).hostReg r = s.hostReg r := by cases r <;> rfl

theorem State.hostByte_withPending (s : State) (l : List HostTxn) (b : Buf) (i : Nat) :
    (s.withPending l).hostByte b i = s.hostByte b i := by cases b <;> rfl

/-- The timeout is Known exactly for the bytes 0 to 3 (41_decoder.md R123). -/
theorem timeoutMinutes_isSome : ∀ b : Byte, (timeoutMinutes b).isSome = true ↔ b.toNat ≤ 3 := by decide

/-! ### A transaction -/

/-- A step with a transaction to come performs it. -/
theorem step_of_pending {s : State} {x : HostTxn} {rest : List HostTxn} (h : s.pending = x :: rest) :
    step s = transact x (s.withPending rest) := by
  simp only [step, issueNext, h]

/-- A step with no transaction to come changes nothing. -/
theorem step_of_idle {s : State} (h : s.pending = []) : step s = .next s := by
  simp only [step, issueNext, h]

/-- What one transaction can do to a state from which the host's list has already lost it. -/
theorem transact_cases (x : HostTxn) (s : State) :
    ∃ t, transact x s = .next t ∧
      ((t = s.respond .accerr) ∨
       (∃ n r, x = .regRead n ∧ regOfNumber n = some r ∧
          t = s.respond (.okWord (s.hostReg r))) ∨
       (∃ b i c, x = .bufRead b i ∧ bufOfId b = some c ∧ i < bufCapacity c ∧
          t = s.respond (.okByte (s.hostByte c i))) ∨
       (∃ b i v c, x = .bufWrite b i v ∧ bufOfId b = some c ∧ bufWritable c = true ∧ i < bufCapacity c ∧
          t = (s.setBuf c ((s.buf c).write i v)).nextDraw.respond .ok) ∨
       (∃ n v r, x = .regWrite n v ∧ regOfNumber n = some r ∧ regWritable r = true ∧ r ≠ .cmd ∧
          t = (s.storeReg r v).nextDraw.respond .ok) ∨
       (∃ n v i u, x = .regWrite n v ∧ regOfNumber n = some .cmd ∧ decode v = .ok i ∧
          exec i (s.storeReg .cmd v) = .next u ∧ t = u.respond .ok) ∨
       (∃ n v e, x = .regWrite n v ∧ regOfNumber n = some .cmd ∧ decode v = .error e ∧
          t = ((s.storeReg .cmd v).raise .nothing .illegalCommand).respond .ok)) := by
  cases x with
  | regRead n =>
    simp only [transact, hostRegRead]
    cases hr : regOfNumber n with
    | none => exact ⟨_, rfl, .inl rfl⟩
    | some r => exact ⟨_, rfl, .inr (.inl ⟨n, r, rfl, hr, rfl⟩)⟩
  | bufRead b i =>
    simp only [transact, hostBufRead]
    cases hb : bufOfId b with
    | none => exact ⟨_, rfl, .inl rfl⟩
    | some c =>
      by_cases hi : i < bufCapacity c
      · exact ⟨_, rfl, .inr (.inr (.inl ⟨b, i, c, rfl, hb, hi, by simp [hi]⟩))⟩
      · exact ⟨_, rfl, .inl (by simp [hi])⟩
  | bufWrite b i v =>
    simp only [transact, hostBufWrite]
    cases hb : bufOfId b with
    | none => exact ⟨_, rfl, .inl rfl⟩
    | some c =>
      by_cases hi : bufWritable c = true ∧ i < bufCapacity c
      · exact ⟨_, rfl, .inr (.inr (.inr (.inl ⟨b, i, v, c, rfl, hb, hi.1, hi.2, by simp [hi]⟩)))⟩
      · exact ⟨_, rfl, .inl (by simp [hi])⟩
  | regWrite n v =>
    simp only [transact, hostRegWrite]
    cases hr : regOfNumber n with
    | none => exact ⟨_, rfl, .inl rfl⟩
    | some r =>
      by_cases hw : regWritable r = true
      · by_cases hc : r = .cmd
        · subst hc
          simp only [hw, if_true, performWord]
          cases hd : decode v with
          | ok i =>
            obtain ⟨u, hu, -⟩ := exec_cases i (s.storeReg .cmd v)
            exact ⟨_, by simp [hu, respondAfter],
              .inr (.inr (.inr (.inr (.inr (.inl ⟨n, v, i, u, rfl, hr, hd, hu, rfl⟩)))))⟩
          | error e =>
            exact ⟨_, rfl, .inr (.inr (.inr (.inr (.inr (.inr ⟨n, v, e, rfl, hr, hd, rfl⟩)))))⟩
        · exact ⟨_, by simp only [hw, hc, if_true, if_false],
            .inr (.inr (.inr (.inr (.inl ⟨n, v, r, rfl, hr, hw, hc, rfl⟩))))⟩
      · exact ⟨_, by simp [hw], .inl rfl⟩

end Sys2Proof.Machine
end

