-- ==== Sys2Proof/Laws/PerInstr.lean ====
section
/-! SUPPORT. Statements for all instructions, one lemma per constructor. -/

namespace Sys2Proof.Laws.EncodedFields

/-- The fields of an encoded command are those of a defined command (30_encoding.md R80, R83). -/
def Statement (i : Instr) : Prop := (fieldsOfWord (encode i)).wf = true

theorem nop : Statement .nop := by unfold Statement; decide
theorem clr : Statement .clr := by unfold Statement; decide
theorem frame : Statement .frame := by unfold Statement; decide
theorem frameCfg : Statement .frameCfg := by unfold Statement; decide
theorem frameBat : Statement .frameBat := by unfold Statement; decide
theorem decCfg : Statement .decCfg := by unfold Statement; decide
theorem decBat : Statement .decBat := by unfold Statement; decide
theorem enc1 : Statement .enc1 := by unfold Statement; decide
theorem enc2 : Statement .enc2 := by unfold Statement; decide

end Sys2Proof.Laws.EncodedFields
end

