-- ==== Sys2Proof/Laws/Step.lean ====
section
/-! SUPPORT. An invariant of the block is kept by every step once each part of a step keeps it: the induction over the
machine, packaged once. -/

namespace Sys2Proof.Machine

/-- States with the same block have the same buffers. -/
theorem State.buf_of_block {s t : State} (h : s.block = t.block) (b : Buf) : s.buf b = t.buf b := by
  have key : ∀ u : State, u.block.buf b = u.buf b := fun u => by cases b <;> rfl
  rw [← key s, ← key t, h]

/-- States with the same block have the same registers. -/
theorem State.regValue_of_block {s t : State} (h : s.block = t.block) (r : Reg) : s.regValue r = t.regValue r := by
  have key : ∀ u : State, u.block.regValue r = u.regValue r := fun u => by cases r <;> rfl
  rw [← key s, ← key t, h]

/-- What a step does, in the parts of which a transaction is made. `Inv` speaks of the block only (`block`), and is
kept by a buffer write of the host, a register write, an error entry of a command, that of an illegal word, and the
success of each command. -/
theorem step_keeps {Inv : State → Prop}
    (block : ∀ s t : State, s.block = t.block → Inv s → Inv t)
    (bufWrite : ∀ (s : State) b i v, bufWritable b = true → i < bufCapacity b → Inv s →
      Inv (s.setBuf b ((s.buf b).write i v)))
    (regWrite : ∀ (s : State) r v, regWritable r = true → Inv s → Inv (s.storeReg r v))
    (raise : ∀ (s : State) i e, e ∈ errorsOf i → Inv s → Inv (s.raise (outputGroupOf i) e))
    (illegal : ∀ s : State, Inv s → Inv (s.raise .nothing .illegalCommand))
    (completes : ∀ i (s t : State), Completes i s t → Inv s → Inv t)
    {s t : State} (hs : Inv s) (h : step s = .next t) : Inv t := by
  cases hp : s.pending with
  | nil =>
    rw [step_of_idle hp] at h
    cases h
    exact hs
  | cons x rest =>
    rw [step_of_pending hp] at h
    have hw : Inv (s.withPending rest) := block s _ rfl hs
    obtain ⟨t', ht, hc⟩ := transact_cases x (s.withPending rest)
    cases ht.symm.trans h
    rcases hc with rfl | ⟨n, r, -, -, rfl⟩ | ⟨b, i, c, -, -, -, rfl⟩ | ⟨b, i, v, c, -, -, hb, hi, rfl⟩ |
      ⟨n, v, r, -, -, hr, -, rfl⟩ | ⟨n, v, i, u, -, -, -, hu, rfl⟩ | ⟨n, v, e, -, -, -, rfl⟩
    · exact block s _ rfl hs
    · exact block s _ rfl hs
    · exact block s _ rfl hs
    · exact block _ _ ((State.block_respond _ _).trans (State.block_nextDraw _)).symm (bufWrite _ _ _ v hb hi hw)
    · exact block _ _ ((State.block_respond _ _).trans (State.block_nextDraw _)).symm (regWrite _ _ v hr hw)
    · have h1 := regWrite _ .cmd v rfl hw
      refine block u _ rfl ?_
      rcases exec_next_cases hu with ⟨e, he, rfl⟩ | hc
      · exact raise _ _ _ he h1
      · exact completes _ _ _ hc h1
    · exact block _ _ (State.block_respond _ _).symm (illegal _ (regWrite _ .cmd v rfl hw))

end Sys2Proof.Machine
end

