-- ==== Sys2Proof/Tests/Slice0.lean ====
section
/-! SUPPORT. Small tests, their expected results taken from spec/95_test_vectors.md or worked out from the cited rule,
and a witness for the hypotheses of every statement. -/

namespace Sys2Proof.Tests

open Sys2Proof Sys2Proof.Machine Sys2Proof.Machine.Claim

/-! ### Helpers -/

/-- The state that a step or a command answers. -/
def after (o : Host.Outcome State Fault Refusal) : Option State :=
  match o with
  | .next t => some t
  | .fault _ => none
  | .refused _ => none

def bytes (l : List Nat) : List Byte := l.map (BitVec.ofNat 8)
def withRaw (l : List Nat) (s : State) : State :=
  { s with raw := Mem.ofBytes (bytes l), rawLen := BitVec.ofNat 16 l.length }
def withPfx (l : List Nat) (s : State) : State :=
  { s with pfx := Mem.ofBytes (bytes l), pfxLen := BitVec.ofNat 8 l.length }
def withPay (l : List Nat) (s : State) : State :=
  { s with pay := Mem.ofBytes (bytes l), payLen := BitVec.ofNat 16 l.length }
def withGrid (w h : Nat) (l : List Nat) (s : State) : State :=
  { s with imgW := BitVec.ofNat 16 w, imgH := BitVec.ofNat 16 h, pix := Mem.ofBytes (bytes l) }
def withPad (n b : Nat) (s : State) : State := { s with padLen := BitVec.ofNat 16 n, padByte := BitVec.ofNat 8 b }
def issuing (l : List HostTxn) (s : State) : State := s.withPending l

/-- The CONFIG response of S1. -/
def configRaw : List Nat :=
  [0x43, 0x4F, 0x4E, 0x46, 0x49, 0x47, 0x20, 0x01, 0x2C, 0x01, 0x02, 0x03, 0x02, 0x05, 0x06, 0x02, 0x01, 0x0D, 0x0A]
/-- The payload of S1. -/
def configPay : List Nat := [0x01, 0x2C, 0x01, 0x02, 0x03, 0x02, 0x05, 0x06, 0x02, 0x01]
/-- The BATTERY response of F10: terminator bytes `XY`. -/
def batteryRaw : List Nat := [0x42, 0x41, 0x54, 0x54, 0x45, 0x52, 0x59, 0x20, 0x7F, 0x02, 0x58, 0x59]

def okFrame : State := withPfx [0x4F, 0x4B, 0x20] { withRaw [0x4F, 0x4B, 0x20, 0x41, 0x0D, 0x0A] State.reset with expLen := 1#16 }
def okCfg : State := withRaw configRaw State.reset
def okBat : State := withRaw batteryRaw State.reset
def okDecCfg : State := withPay configPay State.reset
def okDecBat : State := withPay [0x75, 0x00] State.reset
/-- B11 -/
def okEnc1 : State := withPad 2 0xFF (withGrid 3 3 [10, 200, 90, 128, 127, 250, 0, 255, 60] State.reset)
/-- Q7 -/
def okEnc2 : State := withPad 4 0x00 (withGrid 3 2 [0, 100, 200, 255, 30, 130] State.reset)
/-- Two white pixels, PAD_LEN = 2. -/
def white : State := withPad 2 0xFF (withGrid 2 1 [255, 255] State.reset)

/-! ### Smoke test of the well-formedness checks: one ill-formed term for each -/

theorem test_wf_reserved_unit : CommandFields.unitDefined ⟨4#4, 0#4, 0#8⟩ = false := by decide
theorem test_wf_reserved_func : (CommandFields.funcDefined ⟨0#4, 2#4, 0#8⟩ || CommandFields.funcDefined ⟨1#4, 3#4, 0#8⟩ ||
    CommandFields.funcDefined ⟨2#4, 0#4, 0#8⟩ || CommandFields.funcDefined ⟨3#4, 3#4, 0#8⟩) = false := by decide
theorem test_wf_nonzero_arg : CommandFields.argZero ⟨2#4, 1#4, 1#8⟩ = false := by decide
theorem test_wf_fields : (CommandFields.wf ⟨4#4, 0#4, 0#8⟩ || CommandFields.wf ⟨3#4, 3#4, 0#8⟩ ||
    CommandFields.wf ⟨2#4, 1#4, 1#8⟩) = false := by decide
theorem test_wf_absent_register : (HostTxn.wf (.regRead 0x0C) || HostTxn.wf (.regRead 0x1F) ||
    HostTxn.wf (.regRead 0xFFFF)) = false := by decide
theorem test_wf_readonly_register : (HostTxn.wf (.regWrite 0x01 0#16) || HostTxn.wf (.regWrite 0x07 1#16) ||
    HostTxn.wf (.regWrite 0x0F 0#16) || HostTxn.wf (.regWrite 0x10 1#16)) = false := by decide
theorem test_wf_buffer_read : (HostTxn.wf (.bufRead 3 16) || HostTxn.wf (.bufRead 4 64) || HostTxn.wf (.bufRead 1 3408) ||
    HostTxn.wf (.bufRead 5 0)) = false := by decide
theorem test_wf_buffer_write : (HostTxn.wf (.bufWrite 1 0 1#8) || HostTxn.wf (.bufWrite 2 64 1#8) ||
    HostTxn.wf (.bufWrite 0 27264 0#8) || HostTxn.wf (.bufWrite 5 0 0#8)) = false := by decide
theorem test_wf_mem_order : ¬ Mem.wf 16 [(3, 1#8), (2, 0#8)] := by decide
theorem test_wf_mem_capacity : ¬ Mem.wf 16 [(16, 1#8)] := by decide

/-! ### Decoding, each word written out from unit, func, arg of 30_encoding.md R80, R81 -/

theorem test_decode_nop : decode 0b0000_0000_00000000#16 = .ok .nop := by decide
theorem test_decode_clr : decode 0b0000_0001_00000000#16 = .ok .clr := by decide
theorem test_decode_frame : decode 0b0001_0000_00000000#16 = .ok .frame := by decide
theorem test_decode_frameCfg : decode 0b0001_0001_00000000#16 = .ok .frameCfg := by decide
theorem test_decode_frameBat : decode 0b0001_0010_00000000#16 = .ok .frameBat := by decide
theorem test_decode_decCfg : decode 0b0010_0001_00000000#16 = .ok .decCfg := by decide
theorem test_decode_decBat : decode 0b0010_0010_00000000#16 = .ok .decBat := by decide
theorem test_decode_enc1 : decode 0b0011_0001_00000000#16 = .ok .enc1 := by decide
theorem test_decode_enc2 : decode 0b0011_0010_00000000#16 = .ok .enc2 := by decide
/-- X6, X7 -/
theorem test_decode_rejects : decode 0x2101#16 = .error .nonzeroArg ∧ decode 0x2000#16 = .error .reservedFunc ∧
    decode 0x4000#16 = .error .reservedUnit := by decide
theorem test_decodeTableWord : decodeTableWord 16 0x1200 = some .frameBat ∧ decodeTableWord 16 0x1300 = none := by decide

/-! ### Commands -/

/-- X2: NOP keeps STATUS; by its word, from reset. -/
theorem test_nop : (after (step ({ State.reset with status := 0x0503#16 }.withFetchWord 16 0x0000))).map
    (fun t => (t.cmd, t.status, t.position)) = some (0x0000#16, 0x0503#16, 1) := by decide
/-- X4 -/
theorem test_clr : (after (step ((withPad 4 0 okDecBat).withFetchWord 16 0x0100))).map
    (fun t => (t.cmd, t.padLen, t.padByte, t.payLen, t.pay.length)) = some (0#16, 3408#16, 0xFF#8, 0#16, 0) := by decide
/-- F1 -/
theorem test_frame : (after (exec .frame okFrame)).map (fun t => (t.pay, t.payLen, t.status)) =
    some ([(0, 0x41#8)], 1#16, 0x0003#16) := by decide
/-- F3: one byte after the prefix is BadLength, whatever EXP_LEN is. -/
theorem test_frame_short : (after (exec .frame (withRaw [0x4F, 0x4B, 0x20, 0x0D] { okFrame with expLen := 0#16 }))).map
    (fun t => (t.payLen, t.status)) = some (0#16, 0x0020#16) := by decide
/-- S1 -/
theorem test_frameCfg : (after (exec .frameCfg okCfg)).map (fun t => (t.pay.map (·.2), t.payLen, t.status)) =
    some (bytes configPay, 10#16, 0x0003#16) := by decide
/-- F12: no byte of RAW is read. -/
theorem test_frameCfg_empty : (after (exec .frameCfg State.reset)).map (·.status) = some 0x0010#16 := by decide
/-- F10: the terminator's value is not checked. -/
theorem test_frameBat : (after (exec .frameBat okBat)).map (fun t => (t.pay.map (·.2), t.payLen, t.status)) =
    some (bytes [0x7F, 0x02], 2#16, 0x0001#16) := by decide
/-- F8: PFX_LEN is not read. -/
theorem test_frameBat_pfxLen : (after (exec .frameBat { withRaw [1, 2, 3, 4] State.reset with pfxLen := 17#8 })).map
    (·.status) = some 0x0010#16 := by decide
/-- S1, without the framer's TERMOK (D10). -/
theorem test_decCfg : (after (exec .decCfg okDecCfg)).map
    (fun t => (t.dpi, t.hwPat, t.fwMaj, t.tmoRaw, t.tmoMin, t.beep, t.status)) =
    some (300#16, 3#8, 2#8, 2#8, 30#8, 1#2, 0x0501#16) := by decide
/-- The second row of S2: an Unknown timeout and an Unknown beep byte are no errors. -/
theorem test_decCfg_unknown : (after (exec .decCfg (withPay [0xFF, 0xFF, 0, 0, 0, 0, 0, 0, 4, 2] State.reset))).map
    (fun t => (t.dpi, t.tmoRaw, t.beepRaw, t.beep, t.status)) = some (65535#16, 4#8, 2#8, 2#2, 0x0101#16) := by decide
/-- S6: 0x75 means 75. -/
theorem test_decBat : (after (exec .decBat okDecBat)).map (fun t => (t.batRaw, t.batPct, t.chg, t.status)) =
    some (0x75#8, 75#8, 0#2, 0x0A01#16) := by decide
/-- D12, second command. -/
theorem test_decBat_mismatch : (after (exec .decBat { okDecBat with payLen := 3#16, status := 0x0A01#16 })).map
    (·.status) = some 0x0030#16 := by decide
/-- B11, trace T3. -/
theorem test_enc1 : (after (exec .enc1 okEnc1)).map (fun t => (t.ras, t.packLen, t.rasLen, t.status)) =
    some ([(0, 0x4D#8), (1, 0x7F#8)], 2#16, 2#16, 0x0001#16) := by decide
/-- B10, trace T2. -/
theorem test_enc1_rows : (after (exec .enc1 (withPad 1 0 (withGrid 4 2 [100, 100, 100, 100, 100, 100, 100, 100] State.reset)))).map
    (·.ras) = some [(0, 0x45#8)] := by decide
/-- Q7 -/
theorem test_enc2 : (after (exec .enc2 okEnc2)).map (fun t => (t.ras.map (·.2), t.packLen, t.rasLen, t.status)) =
    some (bytes [0x1F, 0x20, 0, 0], 2#16, 4#16, 0x0001#16) := by decide
/-- Q12, and that no pixel is needed for the check. -/
theorem test_enc2_oversize : (after (exec .enc2 (withGrid 96 284 [] State.reset))).map (fun t => (t.status, t.ras)) =
    some (0x0040#16, []) := by decide

/-! ### Transactions -/

/-- X6 -/
theorem test_illegal : (after (step ({ State.reset with status := 0x0503#16 }.withFetchWord 16 0x2101))).map
    (fun t => (t.cmd, t.status)) = some (0x2101#16, 0x0552#16) := by decide
/-- H3: an 8-bit register stores the low bits. -/
theorem test_regWrite : (after (step (issuing [.regWrite 0x09 0x0111#16] State.reset))).map
    (fun t => (t.pfxLen, t.responses)) = some (0x11#8, [.ok]) := by decide
/-- H1 -/
theorem test_regRead : (after (step (issuing [.regRead 0x04] State.reset))).map (·.responses) = some [.okWord 0x0D50#16] := by
  decide
/-- H8, second half, with RAW_LEN = 64, so that index 63 lies in the valid region (log 8). -/
theorem test_bufRead : (after (step (issuing [.bufRead 2 63]
    { State.reset with raw := [(63, 0xAB#8)], rawLen := 64#16 }))).map (·.responses) =
    some [.okByte 0xAB#8] := by decide
/-- S9: 12 × 284 = 3408, 96 × 284 / 8 = 3408, 12 × 8 = 96. -/
theorem test_raster_size : Config.rowBytes * Config.rows = Config.rasterLen ∧
    Config.boxW * Config.boxH = 8 * Config.rasterLen ∧ Config.rowBytes * 8 = Config.boxW := by decide
/-- H6, H7 -/
theorem test_accerr : (after (step (issuing [.bufWrite 1 0 1#8] State.reset))).map (·.responses) = some [.accerr] ∧
    (after (step (issuing [.bufWrite 2 64 1#8] State.reset))).map (fun t => (t.responses, t.raw)) = some ([.accerr], []) := by
  decide

/-! ### Witnesses: for every statement with hypotheses, states and operands that meet them -/

theorem witness_DecodeOfEncodeIsIdentity : Instr.wf .frameBat = true := by decide

theorem witness_StepOnCommandWriteRunsTheDecodedCommand :
    Issues (issuing [.regWrite 0x00 0x1100#16] State.reset) (.regWrite 0x00 0x1100#16) [] ∧
    decode 0x1100#16 = .ok .frameCfg := ⟨rfl, by decide⟩

theorem witness_IllegalWordSetsCmdAndErrorFive :
    Issues (issuing [.regWrite 0x00 0x0001#16] State.reset) (.regWrite 0x00 0x0001#16) [] ∧
    0x0001#16 ∉ [0x0000#16, 0x0100#16, 0x1000#16, 0x1100#16, 0x1200#16, 0x2100#16, 0x2200#16, 0x3100#16, 0x3200#16] :=
  ⟨rfl, by decide⟩

theorem witness_IdleBlockKeepsItsState : State.reset.pending = [] := rfl

theorem witness_EveryTransactionAdvancesTheIndexByOne :
    Issues (issuing [.bufRead 7 0] State.reset) (.bufRead 7 0) [] := rfl

theorem witness_BlockCannotReadTheHostsSide :
    (issuing [.regRead 1] State.reset).block = (issuing [.regRead 1, .regRead 2] { State.reset with position := 5 }).block ∧
    Issues (issuing [.regRead 1] State.reset) (.regRead 1) [] ∧
    Issues (issuing [.regRead 1, .regRead 2] { State.reset with position := 5 }) (.regRead 1) [.regRead 2] := ⟨rfl, rfl, rfl⟩

theorem witness_ClrLeavesTheResetState :
    Issues (issuing [.regWrite 0x00 0x0100#16] okDecBat) (.regWrite 0x00 0x0100#16) [] := rfl

theorem witness_NopChangesNothingButCmd :
    Issues (issuing [.regWrite 0x00 0x0000#16] okDecBat) (.regWrite 0x00 0x0000#16) [] := rfl

/-- absent: 0x0C and 0x1F; specified: 0x0B; unspecified at reset: 0x10 and 0x1E -/
theorem witness_RegReadReturnsTheRegister :
    Issues (issuing [.regRead 0x0C] State.reset) (.regRead 0x0C) [] ∧
    regNumberExists 0x0C = false ∧ regNumberExists 0x1F = false ∧
    (regOfNumber 0x0B = some .payLen ∧ State.reset.regSpecified .payLen = true) ∧
    (regOfNumber 0x10 = some .dpi ∧ State.reset.regSpecified .dpi = false) ∧
    (regOfNumber 0x1E = some .chg ∧ State.reset.regSpecified .chg = false) := ⟨rfl, by decide⟩

theorem witness_ResultRegistersAreSpecifiedByTheirFlags :
    (Status.cfgValid State.reset.status = false ∧ Status.batValid State.reset.status = false ∧
     Status.tmoKnown State.reset.status = false ∧ Status.batKnown State.reset.status = false) ∧
    (Status.cfgValid 0x0501#16 = true ∧ Status.tmoKnown 0x0501#16 = true ∧ Status.tmoKnown 0x0101#16 = false) ∧
    (Status.batValid 0x0A01#16 = true ∧ Status.batKnown 0x0A01#16 = true ∧ Status.batKnown 0x0201#16 = false) := by decide

/-- refused: 0x01, 0x06, 0x0C; stored: 0x05; a command: 0x00 -/
theorem witness_RegWriteStoresTheLowBits :
    Issues (issuing [.regWrite 0x05 0x1FF#16] State.reset) (.regWrite 0x05 0x1FF#16) [] ∧
    (regNumberWritable 0x01 = false ∧ regNumberWritable 0x06 = false ∧ regNumberWritable 0x0C = false) ∧
    (regOfNumber 0x05 = some .padByte ∧ regWritable .padByte = true ∧ Reg.padByte ≠ .cmd) ∧
    decode 0x3200#16 = .ok .enc2 := ⟨rfl, by decide⟩

/-- refused: id 5, index 16 of PFX; specified: the last byte of each valid region, RAS among them; unspecified: RAS[0] at
reset, and bytes with a value at the end of the region: PAY[1] with PAY_LEN = 1, RAW[63] with RAW_LEN = 63, PFX[0] with
PFX_LEN = 0, PIX[6] of a 3 × 2 grid. -/
theorem witness_BufReadReturnsTheByte :
    Issues (issuing [.bufRead 2 63] okCfg) (.bufRead 2 63) [] ∧ capacityOfId 5 = none ∧ capacityOfId 3 = some 16 ∧
    (∀ c, bufOfId (bufId c) = some c) ∧
    ({ okEnc2 with ras := [(1, 2#8)], rasLen := 2#16 }.byte .ras 1 = some 2#8 ∧
      InValidRegion { okEnc2 with ras := [(1, 2#8)], rasLen := 2#16 } .ras 1) ∧
    (okEnc2.byte .pix 5 = some 130#8 ∧ InValidRegion okEnc2 .pix 5) ∧
    (okCfg.byte .raw 18 = some 0x0A#8 ∧ InValidRegion okCfg .raw 18) ∧
    (okFrame.byte .pfx 2 = some 0x20#8 ∧ InValidRegion okFrame .pfx 2) ∧
    (okDecBat.byte .pay 1 = some 0#8 ∧ InValidRegion okDecBat .pay 1) ∧
    (State.reset.byte .ras 0 = none ∧ 0 < bufCapacity .ras) ∧
    ¬ InValidRegion { okDecBat with payLen := 1#16 } .pay 1 ∧
    ¬ InValidRegion { State.reset with raw := [(63, 0xAB#8)], rawLen := 63#16 } .raw 63 ∧
    ¬ InValidRegion { okFrame with pfxLen := 0#8 } .pfx 0 ∧ ¬ InValidRegion okEnc2 .pix 6 :=
  ⟨rfl, by decide, by decide, fun c => by cases c <;> rfl, by unfold InValidRegion; decide⟩

theorem witness_BufWriteSetsOneByte :
    Issues (issuing [.bufWrite 2 63 0xAB#8] State.reset) (.bufWrite 2 63 0xAB#8) [] ∧
    (bufOfId 2 = some .raw ∧ Buf.raw ≠ .ras ∧ 63 < bufCapacity .raw) ∧
    capacityOfId 2 = some 64 ∧ capacityOfId 5 = none := ⟨rfl, by decide⟩

theorem witness_RefusedTransactionsChangeNothing :
    Issues (issuing [.bufWrite 1 0 1#8] State.reset) (.bufWrite 1 0 1#8) [] ∧
    HostTxn.wf (.bufWrite 1 0 1#8) = false ∧ HostTxn.wf (.bufRead 1 0) = true ∧ HostTxn.wf (.regWrite 0 0#16) = true ∧
    HostTxn.wf (.regRead 0x1E) = true ∧ HostTxn.wf (.bufWrite 0 27263 0#8) = true := ⟨rfl, by decide⟩

/-- inside the region, outside it, and with the length register raised above the byte: each length to its last index -/
theorem witness_HostReadsBackTheByteItWrote :
    (Buf.pay ≠ .ras ∧ 63 < bufCapacity .pay ∧ InValidRegion { State.reset with payLen := 64#16 } .pay 63 ∧
      ¬ InValidRegion State.reset .pay 63) ∧
    (issuing [.bufWrite 4 63 0xAB#8, .bufRead 4 63] { State.reset with payLen := 64#16 }).pending =
      .bufWrite (bufId .pay) 63 0xAB#8 :: .bufRead (bufId .pay) 63 :: [] ∧
    (15 < bufCapacity .pfx ∧ 15 < (0x0110#16).toNat % 2 ^ regWidth .pfxLen) ∧
    (issuing [.bufWrite 3 15 0xAB#8, .regWrite 9 0x0110#16, .bufRead 3 15] State.reset).pending =
      .bufWrite (bufId .pfx) 15 0xAB#8 :: .regWrite (regNumber .pfxLen) 0x0110#16 :: .bufRead (bufId .pfx) 15 :: [] :=
  ⟨by unfold InValidRegion; decide, rfl, by decide, rfl⟩

/-- the reads of H10, H9 and H5 between two reads of RAS[0], all from reset -/
theorem witness_ReadsAreIdempotent :
    IsRead (.bufRead 1 0) ∧ (∀ y ∈ [HostTxn.regRead 0x10, .bufRead 4 0, .regRead 0x0C], IsRead y) ∧
    (issuing [.bufRead 1 0, .regRead 0x10, .bufRead 4 0, .regRead 0x0C, .bufRead 1 0] State.reset).pending =
      .bufRead 1 0 :: [HostTxn.regRead 0x10, .bufRead 4 0, .regRead 0x0C] ++ .bufRead 1 0 :: [] :=
  ⟨trivial, by simp [IsRead], rfl⟩

theorem witness_HostReadsBackTheRegisterItWrote :
    (regWritable .padByte = true ∧ Reg.padByte ≠ .cmd) ∧
    (issuing [.regWrite 5 0x1FF#16, .regRead 5] State.reset).pending =
      .regWrite (regNumber .padByte) 0x1FF#16 :: .regRead (regNumber .padByte) :: [] := ⟨by decide, rfl⟩

theorem witness_LoadrawLoadsTheResponse :
    (List.replicate 64 0#8).length ≤ 64 ∧
    (issuing (Script.loadraw (List.replicate 64 0#8) ++ [.regRead 1]) State.reset).pending =
      Script.loadraw (List.replicate 64 0#8) ++ [.regRead 1] := ⟨by decide, rfl⟩

/-- F1, and F2's empty payload -/
theorem witness_FrameStripsPrefixAndTerminator :
    (okFrame.rawLen.toNat ≤ 64 ∧ okFrame.pfxLen.toNat ≤ 16 ∧
      (∀ k, k < okFrame.pfxLen.toNat → okFrame.operandByte .raw k = okFrame.operandByte .pfx k) ∧
      okFrame.rawLen.toNat = okFrame.pfxLen.toNat + okFrame.expLen.toNat + 2) ∧
    ∃ s : State, s.rawLen.toNat = 64 ∧ s.pfxLen.toNat = 0 ∧
      s.rawLen.toNat = s.pfxLen.toNat + s.expLen.toNat + 2 :=
  ⟨by decide, { State.reset with rawLen := 64#16, expLen := 62#16 }, by decide⟩

theorem witness_FrameCfgAcceptsConfigResponses :
    okCfg.rawLen.toNat = 19 ∧ StartsWith okCfg [0x43#8, 0x4F#8, 0x4E#8, 0x46#8, 0x49#8, 0x47#8, 0x20#8] :=
  ⟨by decide, by unfold StartsWith; decide⟩

theorem witness_FrameBatAcceptsBatteryResponses :
    okBat.rawLen.toNat = 12 ∧ StartsWith okBat [0x42#8, 0x41#8, 0x54#8, 0x54#8, 0x45#8, 0x52#8, 0x59#8, 0x20#8] :=
  ⟨by decide, by unfold StartsWith; decide⟩

/-- BadConfig: RAW_LEN = 65, and PFX_LEN = 17 of FRAME only; BadPrefix: empty RAW, and one byte short of the prefix;
BadLength: the payload one byte short and one byte long. -/
theorem witness_FramerReportsTheFirstFailingCheck :
    framerOperands .frame okFrame = some (okFrame.region .pfx 3, 1) ∧
    FramerMisconfigured .frameCfg { okCfg with rawLen := 65#16 } ∧
    FramerMisconfigured .frame { okFrame with pfxLen := 17#8 } ∧
    (¬ FramerMisconfigured .frameBat { okBat with pfxLen := 17#8 } ∧
      ¬ FramerMisconfigured .frameCfg { okCfg with rawLen := 64#16 }) ∧
    (¬ StartsWith State.reset Config.pfxConfig ∧ ¬ StartsWith (withRaw (configRaw.take 6) State.reset) Config.pfxConfig) ∧
    (StartsWith { okCfg with rawLen := 18#16 } Config.pfxConfig ∧ ({ okCfg with rawLen := 18#16 } : State).rawLen.toNat ≠ 19) ∧
    StartsWith { okCfg with rawLen := 20#16 } Config.pfxConfig := by
  unfold FramerMisconfigured StartsWith
  decide

theorem witness_TerminatorValueDecidesOnlyTermok :
    framerOperands .frameBat okBat = some (Config.pfxBattery, 2) ∧ Config.pfxBattery.length + 2 ≤ okBat.rawLen.toNat ∧
    ∃ t, exec .frameBat okBat = .next t := ⟨by decide, by decide, _, rfl⟩

/-- Every timeout clause: bytes 0, 1, 2, 3, and the Unknown bytes 4 and 255; every beep clause: 0, 1, 2, 255. -/
theorem witness_DecCfgDecodesTheConfigLayout :
    ∀ k ∈ [0, 1, 2, 3, 4, 255], (withPay [0, 0, 0, 0, 0, 0, 0, 0, k, k] State.reset).payLen.toNat = 10 ∧
      (withPay [0, 0, 0, 0, 0, 0, 0, 0, k, k] State.reset).operandByte .pay 8 = BitVec.ofNat 8 k := by decide

/-- Known: 0x00, 0x09, 0x99; Unknown: 0x0A, 0xA0. -/
theorem witness_DecBatDecodesTheBatteryLayout :
    ∀ k ∈ [0x00, 0x09, 0x99, 0x0A, 0xA0], (withPay [k, 1] State.reset).payLen.toNat = 2 ∧
      (withPay [k, 1] State.reset).operandByte .pay 0 = BitVec.ofNat 8 k := by decide

theorem witness_DecOfAnotherLengthIsLengthMismatch :
    (({ State.reset with payLen := 9#16 } : State).payLen.toNat ≠ 10 ∧
      ({ State.reset with payLen := 11#16 } : State).payLen.toNat ≠ 10) ∧
    (({ State.reset with payLen := 1#16 } : State).payLen.toNat ≠ 2 ∧
      ({ State.reset with payLen := 3#16 } : State).payLen.toNat ≠ 2) := by decide

theorem witness_ConfigResponseRoundTrips :
    ∃ (s : State) (l : List HostTxn), s.pending = l ∧ l = Script.loadraw
        ([0x43#8, 0x4F#8, 0x4E#8, 0x46#8, 0x49#8, 0x47#8, 0x20#8] ++ bytes configPay ++ [0x0D#8, 0x0A#8]) ++
      [.regWrite 0x00 0x1100#16, .regWrite 0x00 0x2100#16] ++ [] := ⟨issuing _ State.reset, _, rfl, rfl⟩

/-- each interval at both ends -/
theorem witness_QuantiserIsTheTopTwoBits :
    (0#8).toNat < 64 ∧ (63#8).toNat < 64 ∧ (64 ≤ (64#8).toNat ∧ (127#8).toNat < 128) ∧
    (128 ≤ (128#8).toNat ∧ (191#8).toNat < 192) ∧ 192 ≤ (192#8).toNat ∧ 192 ≤ (255#8).toNat := by decide

/-- 96 × 142 pixels fill the raster exactly; 0 × 0 is encodable too; an uncovered bit: the last of Q7's second byte -/
theorem witness_Enc2PacksTheQuantisedGrid :
    GridFits 2 (withGrid 96 142 [] State.reset) ∧ GridFits 2 State.reset ∧ GridFits 2 okEnc2 ∧
    okEnc2.imgW.toNat * okEnc2.imgH.toNat * 2 ≤ 8 * 1 + (7 - 0) := by
  unfold GridFits
  decide

/-- 96 × 284 pixels fill the raster exactly. -/
theorem witness_Enc1PacksTheDitheredGrid :
    GridFits 1 (withGrid 96 284 [] State.reset) ∧ GridFits 1 (withPad 0 0 State.reset) ∧ GridFits 1 okEnc1 := by
  unfold GridFits
  decide

/-- BadConfig: PAD_LEN = 3409; Oversize: 27265 pixels at 1 bit, 96 × 143 at 2 bits, 1 × 1 with PAD_LEN = 0. -/
theorem witness_EncChecksInOrder :
    3408 < (withPad 3409 0 State.reset).padLen.toNat ∧
    (3408 ≤ State.reset.padLen.toNat ∧ (withGrid 5453 5 [] State.reset).padLen.toNat <
      ((withGrid 5453 5 [] State.reset).imgW.toNat * (withGrid 5453 5 [] State.reset).imgH.toNat * 1 + 7) / 8) ∧
    (withGrid 96 143 [] State.reset).padLen.toNat <
      ((withGrid 96 143 [] State.reset).imgW.toNat * (withGrid 96 143 [] State.reset).imgH.toNat * 2 + 7) / 8 ∧
    (withPad 0 0 (withGrid 1 1 [] State.reset)).padLen.toNat <
      ((withGrid 1 1 [] State.reset).imgW.toNat * (withGrid 1 1 [] State.reset).imgH.toNat * 1 + 7) / 8 := by decide

theorem witness_OversizeIsNeverTruncated :
    (∃ t, exec .enc2 okEnc2 = .next t ∧ Status.ok t.status = true) ∧
    (∃ t, exec .enc2 (withGrid 96 284 [] State.reset) = .next t ∧ (Status.err t.status).toNat = 4) :=
  ⟨⟨_, rfl, by decide⟩, ⟨_, rfl, by decide⟩⟩

theorem witness_DitherKeepsWhiteAndBlack : (bytes [10, 200, 90, 128, 127, 250]).length = 3 * 2 := by decide

theorem witness_DitherEqualsItsLineBufferForm : (bytes [10, 200, 90, 128, 127, 250, 0, 255, 60]).length = 3 * 3 := by decide

theorem witness_WhiteImageEncodesToAllOnes :
    GridFits 1 white ∧ white.padByte = 0xFF#8 ∧
    ∀ n, n < white.imgW.toNat * white.imgH.toNat → white.operandByte .pix n = 255#8 :=
  ⟨by unfold GridFits; decide, by decide, by decide⟩

theorem witness_CommandsRaiseOnlyTheirOwnErrors :
    (∃ t, exec .nop okDecBat = .next t) ∧ (∃ t, exec .clr okDecBat = .next t) ∧
    (∃ t, exec .decBat okDecBat = .next t ∧ Status.ok t.status = true) ∧
    (∃ t, exec .decCfg okDecBat = .next t ∧ Status.ok t.status = false) ∧
    (∃ t, Issues (issuing [.regWrite 0x00 0x3300#16] State.reset) (.regWrite 0x00 0x3300#16) [] ∧
      (∀ i, 0x3300#16 ≠ encode i) ∧ step (issuing [.regWrite 0x00 0x3300#16] State.reset) = .next t) :=
  ⟨⟨_, rfl⟩, ⟨_, rfl⟩, ⟨_, rfl, by decide⟩, ⟨_, rfl, by decide⟩, ⟨_, rfl, by intro i; cases i <;> decide, rfl⟩⟩

theorem witness_CommandsKeepTheFlagsOfOtherUnits : Instr.decBat ≠ .clr ∧ ∃ t, exec .decBat okDecBat = .next t :=
  ⟨by decide, _, rfl⟩

/-- two states that differ in STATUS and in RAW -/
theorem witness_CommandsDependOnlyOnTheirOperands :
    SameOperands .decBat okDecBat { okDecBat with status := 0x0F43#16, raw := [(0, 1#8)] } := by
  refine ⟨by decide, by decide, rfl⟩

theorem witness_CommandsKeepInputsAndRepeat :
    Instr.enc1 ≠ .clr ∧ InputsWritten .enc1 okEnc1 ∧ ∃ t, exec .enc1 okEnc1 = .next t :=
  ⟨by decide, by unfold InputsWritten; decide, _, rfl⟩

theorem witness_FailedFrameMakesTheNextDecodeFail :
    Instr.frameCfg ∈ [Instr.frame, .frameCfg, .frameBat] ∧ Instr.decCfg ∈ [Instr.decCfg, .decBat] ∧
    ∃ t, exec .frameCfg okBat = .next t ∧ Status.ok t.status = false := ⟨by decide, by decide, _, rfl, by decide⟩

/-- by the host, by a command of the table, by an illegal word -/
theorem witness_RegistersChangeOnlyByTheirWriters :
    (∃ t, step (issuing [.regWrite 0x02 3#16] State.reset) = .next t ∧ t.regValue .imgW ≠ State.reset.regValue .imgW) ∧
    (∃ t, step (issuing [.regWrite 0x00 0x2200#16] okDecBat) = .next t ∧ t.regValue .batPct ≠ okDecBat.regValue .batPct) ∧
    (∃ t, step (issuing [.regWrite 0x00 0x3300#16] State.reset) = .next t ∧
      t.regValue .status ≠ State.reset.regValue .status) := ⟨⟨_, rfl, by decide⟩, ⟨_, rfl, by decide⟩, ⟨_, rfl, by decide⟩⟩

theorem witness_BufferBytesChangeOnlyByTheirWriters :
    (∃ t, step (issuing [.bufWrite 0 7 9#8] State.reset) = .next t ∧ t.byte .pix 7 ≠ State.reset.byte .pix 7) ∧
    (∃ t, step (issuing [.regWrite 0x00 0x3200#16] okEnc2) = .next t ∧ t.byte .ras 0 ≠ okEnc2.byte .ras 0) :=
  ⟨⟨_, rfl, by decide⟩, ⟨_, rfl, by decide⟩⟩

theorem witness_StepKeepsBuffersCanonical :
    BuffersCanonical (issuing [.bufWrite 2 0 1#8] okEnc1) ∧ ∃ t, step (issuing [.bufWrite 2 0 1#8] okEnc1) = .next t :=
  ⟨by intro b; cases b <;> decide, _, rfl⟩

theorem witness_StepKeepsStatusLegal :
    StatusLegal (issuing [.regWrite 0 0x2200#16] { okDecBat with status := 0x0503#16 }).status ∧
    ∃ t, step (issuing [.regWrite 0 0x2200#16] { okDecBat with status := 0x0503#16 }) = .next t :=
  ⟨⟨by decide, by decide, by decide, by decide, by decide⟩, _, rfl⟩

/-- both groups valid, with known values (the registers of S1 and S6) -/
theorem witness_StepKeepsResultGroupsDecoded :
    ∃ s t : State, ConfigGroupDecoded s ∧ BatteryGroupDecoded s ∧ Status.cfgValid s.status = true ∧
      Status.batValid s.status = true ∧ step s = .next t :=
  ⟨issuing [.regWrite 0 0x2200#16] { okDecBat with
      status := 0x0F01#16, tmoRaw := 2#8, tmoMin := 30#8, beepRaw := 1#8, beep := 1#2
      batRaw := 0x75#8, batPct := 75#8, chgRaw := 9#8, chg := 2#2 }, _,
    ⟨by decide, by decide, by decide⟩, ⟨by decide, by decide, by decide⟩, by decide, by decide, rfl⟩

theorem witness_StepKeepsRasterConsistent :
    ∃ s t : State, RasterConsistent s ∧ s.rasLen = 2#16 ∧ step s = .next t :=
  ⟨issuing [.regWrite 0 0x3200#16] { okEnc2 with ras := [(0, 1#8), (1, 2#8)], rasLen := 2#16, packLen := 1#16 }, _,
    ⟨by decide, by decide, fun i => by
      show ((Mem.read [(0, 1#8), (1, 2#8)] i).isSome = true) ↔ i < 2
      by_cases h0 : i = 0
      · simp [Mem.read, h0]
      · by_cases h1 : i = 1
        · simp [Mem.read, h1]
        · simp only [Mem.read, h0, h1, if_false]
          simp
          omega⟩, rfl, rfl⟩

end Sys2Proof.Tests
end

/-! PROOFS of the statements about the state (10_state.md): the facts about numbers and words, what a command keeps,
what a command's outcome depends on, and the theorems that settle the statements. -/

/-! ### Register numbers, buffer ids and command words -/

section
namespace Sys2Proof.Machine

theorem regOfNumber_regNumber (r : Reg) : regOfNumber (regNumber r) = some r := by cases r <;> rfl

/-- Only its own number reaches a register (10_state.md R21). -/
theorem regNumber_of_regOfNumber {n : Nat} {r : Reg} (h : regOfNumber n = some r) : regNumber r = n := by
  unfold regOfNumber at h
  split at h <;> cases h <;> rfl

theorem regNumber_range (r : Reg) : regNumber r ≤ 0x0B ∨ 0x10 ≤ regNumber r ∧ regNumber r ≤ 0x1E := by
  cases r <;> decide

/-- The numbers that reach a register (20_memory.md R72). -/
theorem regOfNumber_isSome_iff (n : Nat) : (regOfNumber n).isSome = true ↔ n ≤ 0x0B ∨ 0x10 ≤ n ∧ n ≤ 0x1E := by
  constructor
  · intro h
    obtain ⟨r, hr⟩ := Option.isSome_iff_exists.mp h
    exact regNumber_of_regOfNumber hr ▸ regNumber_range r
  · have table : ∀ m < 0x1F, (m ≤ 0x0B ∨ 0x10 ≤ m ∧ m ≤ 0x1E) → (regOfNumber m).isSome = true := by decide
    exact fun h => table n (by omega) h

/-- Only its own id reaches a buffer (10_state.md R30). -/
theorem bufId_of_bufOfId {n : Nat} {b : Buf} (h : bufOfId n = some b) : bufId b = n := by
  unfold bufOfId at h
  split at h <;> cases h <;> rfl

theorem wordOfFields_fieldsOfWord (w : Word) : wordOfFields (fieldsOfWord w) = w := by
  apply BitVec.eq_of_getLsbD_eq
  intro k hk
  simp only [wordOfFields, fieldsOfWord, BitVec.getLsbD_append, BitVec.getLsbD_extractLsb']
  by_cases h8 : k < 8
  · simp [h8]
  · by_cases h12 : k - 8 < 4
    · simp [h8, h12, show 8 + (k - 8) = k by omega]
    · simp [h8, h12, show k - 8 - 4 < 4 by omega, show 12 + (k - 8 - 4) = k by omega]

/-- The fields that decode to a command are that command's row of the table (30_encoding.md R81). -/
theorem fieldsOfInstr_of_decodeFields {f : CommandFields} {i : Instr} (h : decodeFields f = .ok i) :
    f = fieldsOfInstr i := by
  obtain ⟨unit, func, arg⟩ := f
  have row : ∀ (u : BitVec 4) (c : BitVec 4), arg = 0#8 → unit.toNat = u.toNat → func.toNat = c.toNat →
      CommandFields.mk unit func arg = ⟨u, c, 0#8⟩ := fun u c ha hu hc => by
    rw [ha, BitVec.eq_of_toNat_eq hu, BitVec.eq_of_toNat_eq hc]
  unfold decodeFields at h
  split at h
  · cases h
  · rename_i ha
    have ha : arg = 0#8 := not_not.mp ha
    split at h
    case h_10 => split at h <;> cases h
    all_goals
      rename_i hu hc
      cases h
      exact row _ _ ha hu hc

/-- A word that decodes to a command is that command's word (30_encoding.md R80). -/
theorem encode_of_decode {w : Word} {i : Instr} (h : decode w = .ok i) : w = encode i := by
  rw [encode, ← fieldsOfInstr_of_decodeFields h, wordOfFields_fieldsOfWord]

theorem decode_encode (i : Instr) : decode (encode i) = .ok i := by cases i <;> rfl

/-- A word that the decoder rejects is no command's word (30_encoding.md R83). -/
theorem ne_encode_of_decode_error {w : Word} {e : DecodeReject} (h : decode w = .error e) (i : Instr) :
    w ≠ encode i := by
  rintro rfl
  rw [decode_encode] at h
  cases h

end Sys2Proof.Machine
end

/-! ### What a command does, by its output group -/

section
namespace Sys2Proof.Machine
open Sys2Proof.Machine.Claim

/-- What the commands but NOP and CLR can do to a state, for each row of the table of 60_exceptions.md R206: the error
entry, or the success of a command of the group. An illegal word is the error entry of the group `nothing`. -/
inductive Effect (s : State) : OutputGroup → State → Prop
  | raise (g : OutputGroup) (e : ErrorCode) : Effect s g (s.raise g e)
  | payload (payload : List Byte) (len : Word) (termok : Bool) (length : payload.length = len.toNat)
      (cap : len.toNat ≤ 62) : Effect s .payload (s.storePayload payload len termok)
  | config (r : ConfigRecord) (decoded : decodeConfig (s.region .pay Config.lenConfig) = .ok r) :
      Effect s .config (s.storeConfig r)
  | battery (r : BatteryRecord) (decoded : decodeBattery (s.region .pay Config.lenBattery) = .ok r) :
      Effect s .battery (s.storeBattery r)
  | raster (len : Nat) (packed : List Byte) (cap : s.padLen.toNat ≤ 3408) (fits : packed.length ≤ s.padLen.toNat) :
      Effect s .raster (s.storeRaster len packed)

@[simp] theorem length_samples1 (s : State) : s.samples1.length = s.pixelCount := by
  simp [State.samples1, dither]

@[simp] theorem length_samples2 (s : State) : s.samples2.length = s.pixelCount := by simp [State.samples2]

/-- The success of a command but NOP and CLR is the effect of its group. -/
theorem Completes.effect {i : Instr} {s t : State} (hn : i ≠ .nop) (hc : i ≠ .clr) (h : Completes i s t) :
    Effect s (outputGroupOf i) t := by
  cases i <;> simp only [Completes] at h
  case nop => exact absurd rfl hn
  case clr => exact absurd rfl hc
  case frame => obtain ⟨p, n, b, hp, hn, rfl⟩ := h; exact .payload p n b hp hn
  case frameCfg => obtain ⟨p, n, b, hp, hn, rfl⟩ := h; exact .payload p n b hp hn
  case frameBat => obtain ⟨p, n, b, hp, hn, rfl⟩ := h; exact .payload p n b hp hn
  case decCfg => obtain ⟨r, hr, rfl⟩ := h; exact .config r hr
  case decBat => obtain ⟨r, hr, rfl⟩ := h; exact .battery r hr
  case enc1 => obtain ⟨rfl, hcap, hfit⟩ := h; exact .raster _ _ hcap (by simpa using hfit)
  case enc2 => obtain ⟨rfl, hcap, hfit⟩ := h; exact .raster _ _ hcap (by simpa using hfit)

/-- Every way a command can have answered. -/
theorem exec_effect {i : Instr} {s t : State} (h : exec i s = .next t) :
    (i = .nop ∧ t = s) ∨ (i = .clr ∧ t = s.resetBlock) ∨ (i ≠ .nop ∧ i ≠ .clr ∧ Effect s (outputGroupOf i) t) := by
  by_cases hn : i = .nop
  · subst hn; cases h; exact .inl ⟨rfl, rfl⟩
  · by_cases hc : i = .clr
    · subst hc; cases h; exact .inr (.inl ⟨rfl, rfl⟩)
    · refine .inr (.inr ⟨hn, hc, ?_⟩)
      rcases exec_next_cases h with ⟨e, -, rfl⟩ | h
      · exact .raise _ e
      · exact h.effect hn hc

/-- An invariant of the block is kept by every step once the host's writes, CLR and every effect of a command
keep it. -/
theorem step_keeps_of_effect {Inv : State → Prop}
    (block : ∀ s t : State, s.block = t.block → Inv s → Inv t)
    (bufWrite : ∀ (s : State) b i v, bufWritable b = true → i < bufCapacity b → Inv s →
      Inv (s.setBuf b ((s.buf b).write i v)))
    (regWrite : ∀ (s : State) r v, regWritable r = true → Inv s → Inv (s.storeReg r v))
    (clr : ∀ s : State, Inv s → Inv s.resetBlock)
    (effect : ∀ {s t : State} {g}, Effect s g t → Inv s → Inv t)
    {s t : State} (hs : Inv s) (h : step s = .next t) : Inv t := by
  refine step_keeps block bufWrite regWrite (fun s i e _ => effect (.raise _ e)) (fun s => effect (.raise _ _))
    (fun i s t hc hi => ?_) hs h
  by_cases hn : i = .nop
  · subst hn; exact hc ▸ hi
  · by_cases hclr : i = .clr
    · subst hclr; exact hc ▸ clr s hi
    · exact effect (hc.effect hn hclr) hi

/-! ### What a command keeps -/

/-- Nothing outside an output group, STATUS and the counter of free values differs (60_exceptions.md R206). -/
def OnlyGroup (g : OutputGroup) (s t : State) : Prop :=
  match g with
  | .payload => t = { s with pay := t.pay, payLen := t.payLen, status := t.status, draws := t.draws }
  | .config => OnlyConfigGroup s t
  | .battery => OnlyBatteryGroup s t
  | .raster => OnlyRaster s t
  | .nothing => t = { s with status := t.status, draws := t.draws }

theorem Effect.onlyGroup {s t : State} {g : OutputGroup} (h : Effect s g t) : OnlyGroup g s t := by
  cases h with
  | raise g e => cases g <;> rfl
  | payload => rfl
  | config => rfl
  | battery => rfl
  | raster => rfl

theorem OnlyGroup.regValue {i : Instr} {s t : State} (h : OnlyGroup (outputGroupOf i) s t) {r : Reg}
    (hs : r ≠ .status) (hr : r ∉ outputRegs i) : t.regValue r = s.regValue r := by
  cases i <;> rw [h] <;> cases r <;> simp [outputRegs] at hs hr <;> rfl

theorem OnlyGroup.buf {i : Instr} {s t : State} (h : OnlyGroup (outputGroupOf i) s t) {b : Buf}
    (hb : b ∉ outputBufs i) : t.buf b = s.buf b := by
  cases i <;> rw [h] <;> cases b <;> simp [outputBufs] at hb <;> rfl

theorem mem_outputRegs_clr {r : Reg} (h : r ≠ .status) : r ∈ outputRegs .clr := by
  cases r <;> simp [outputRegs] at h ⊢

theorem mem_outputBufs_clr (b : Buf) : b ∈ outputBufs .clr := by cases b <;> decide

/-- A command changes no register but STATUS and its output registers. -/
theorem exec_regValue_kept {i : Instr} {s t : State} (h : exec i s = .next t) {r : Reg} (hs : r ≠ .status)
    (hr : r ∉ outputRegs i) : t.regValue r = s.regValue r := by
  rcases exec_effect h with ⟨rfl, rfl⟩ | ⟨rfl, rfl⟩ | ⟨-, -, he⟩
  · rfl
  · exact absurd (mem_outputRegs_clr hs) hr
  · exact he.onlyGroup.regValue hs hr

/-- A command changes no buffer but its output buffers. -/
theorem exec_buf_kept {i : Instr} {s t : State} (h : exec i s = .next t) {b : Buf} (hb : b ∉ outputBufs i) :
    t.buf b = s.buf b := by
  rcases exec_effect h with ⟨rfl, rfl⟩ | ⟨rfl, rfl⟩ | ⟨-, -, he⟩
  · rfl
  · exact absurd (mem_outputBufs_clr b) hb
  · exact he.onlyGroup.buf hb

end Sys2Proof.Machine
end

/-! ### What a command does to STATUS -/

section
namespace Sys2Proof.Machine
open Sys2Proof.Machine.Claim

@[simp] theorem State.raise_payload_status (s : State) (e : ErrorCode) :
    (s.raise .payload e).status = Status.setOutcome (Status.setTermok s.status false) e := rfl
@[simp] theorem State.raise_config_status (s : State) (e : ErrorCode) :
    (s.raise .config e).status =
      Status.setOutcome (Status.setTmoKnown (Status.setCfgValid s.status false) false) e := rfl
@[simp] theorem State.raise_battery_status (s : State) (e : ErrorCode) :
    (s.raise .battery e).status =
      Status.setOutcome (Status.setBatKnown (Status.setBatValid s.status false) false) e := rfl
@[simp] theorem State.raise_raster_status (s : State) (e : ErrorCode) :
    (s.raise .raster e).status = Status.setOutcome s.status e := rfl
@[simp] theorem State.raise_nothing_status (s : State) (e : ErrorCode) :
    (s.raise .nothing e).status = Status.setOutcome s.status e := rfl
@[simp] theorem State.storePayload_status (s : State) (p : List Byte) (n : Word) (b : Bool) :
    (s.storePayload p n b).status = Status.setOutcome (Status.setTermok s.status b) .noError := rfl
@[simp] theorem State.storeConfig_status (s : State) (r : ConfigRecord) :
    (s.storeConfig r).status =
      Status.setOutcome (Status.setCfgValid (Status.setTmoKnown s.status r.tmo.isSome) true) .noError := rfl
@[simp] theorem State.storeBattery_status (s : State) (r : BatteryRecord) :
    (s.storeBattery r).status =
      Status.setOutcome (Status.setBatValid (Status.setBatKnown s.status r.bat.isSome) true) .noError := rfl
@[simp] theorem State.storeRaster_status (s : State) (n : Nat) (b : List Byte) :
    (s.storeRaster n b).status = Status.setOutcome s.status .noError := rfl

theorem StatusKept.refl (l : List Nat) (w : Word) : StatusKept l w w := fun _ _ => rfl

/-- The outcome of a command touches the bits of OK and ERR alone. -/
theorem StatusKept.setOutcome {l : List Nat} {w w' : Word} (h : StatusKept l w w') (hl : outcomeBits ⊆ l)
    (e : ErrorCode) : StatusKept l w (Status.setOutcome w' e) := by
  intro k hk
  have hbit : k ∉ outcomeBits := fun hm => hk (hl hm)
  simp only [outcomeBits, List.mem_cons, List.not_mem_nil, or_false, not_or] at hbit
  rw [Status.getLsbD_setOutcome, if_neg (by omega), if_neg (by omega), h k hk]

theorem StatusKept.setTermok {l : List Nat} {w w' : Word} (h : StatusKept l w w') (hl : 1 ∈ l) (b : Bool) :
    StatusKept l w (Status.setTermok w' b) := fun k hk => by
  rw [Status.getLsbD_setTermok, if_neg (ne_of_mem_of_not_mem hl hk).symm, h k hk]

theorem StatusKept.setCfgValid {l : List Nat} {w w' : Word} (h : StatusKept l w w') (hl : 8 ∈ l) (b : Bool) :
    StatusKept l w (Status.setCfgValid w' b) := fun k hk => by
  rw [Status.getLsbD_setCfgValid, if_neg (ne_of_mem_of_not_mem hl hk).symm, h k hk]

theorem StatusKept.setBatValid {l : List Nat} {w w' : Word} (h : StatusKept l w w') (hl : 9 ∈ l) (b : Bool) :
    StatusKept l w (Status.setBatValid w' b) := fun k hk => by
  rw [Status.getLsbD_setBatValid, if_neg (ne_of_mem_of_not_mem hl hk).symm, h k hk]

theorem StatusKept.setTmoKnown {l : List Nat} {w w' : Word} (h : StatusKept l w w') (hl : 10 ∈ l) (b : Bool) :
    StatusKept l w (Status.setTmoKnown w' b) := fun k hk => by
  rw [Status.getLsbD_setTmoKnown, if_neg (ne_of_mem_of_not_mem hl hk).symm, h k hk]

theorem StatusKept.setBatKnown {l : List Nat} {w w' : Word} (h : StatusKept l w w') (hl : 11 ∈ l) (b : Bool) :
    StatusKept l w (Status.setBatKnown w' b) := fun k hk => by
  rw [Status.getLsbD_setBatKnown, if_neg (ne_of_mem_of_not_mem hl hk).symm, h k hk]

/-- The bits of STATUS that an effect of a group writes. -/
def statusBitsOfGroup : OutputGroup → List Nat
  | .payload => 1 :: outcomeBits
  | .config => 8 :: 10 :: outcomeBits
  | .battery => 9 :: 11 :: outcomeBits
  | .raster | .nothing => outcomeBits

theorem statusBitsOf_eq {i : Instr} (hn : i ≠ .nop) (hc : i ≠ .clr) :
    statusBitsOf i = statusBitsOfGroup (outputGroupOf i) := by
  cases i <;> simp at hn hc <;> rfl

theorem Effect.statusKept {s t : State} {g : OutputGroup} (h : Effect s g t) :
    StatusKept (statusBitsOfGroup g) s.status t.status := by
  have keep := StatusKept.refl (statusBitsOfGroup g) s.status
  cases h with
  | raise g e =>
    cases g with
    | payload => exact (keep.setTermok (by decide) _).setOutcome (by decide) e
    | config => exact ((keep.setCfgValid (by decide) _).setTmoKnown (by decide) _).setOutcome (by decide) e
    | battery => exact ((keep.setBatValid (by decide) _).setBatKnown (by decide) _).setOutcome (by decide) e
    | raster => exact keep.setOutcome (by decide) e
    | nothing => exact keep.setOutcome (by decide) e
  | payload _ _ b => exact (keep.setTermok (by decide) b).setOutcome (by decide) _
  | config => exact ((keep.setTmoKnown (by decide) _).setCfgValid (by decide) _).setOutcome (by decide) _
  | battery => exact ((keep.setBatKnown (by decide) _).setBatValid (by decide) _).setOutcome (by decide) _
  | raster => exact keep.setOutcome (by decide) _

/-- A command changes no bit of STATUS but its own (10_state.md R36). -/
theorem exec_statusKept {i : Instr} {s t : State} (h : exec i s = .next t) :
    StatusKept (statusBitsOf i) s.status t.status := by
  rcases exec_effect h with ⟨rfl, rfl⟩ | ⟨rfl, rfl⟩ | ⟨hn, hc, he⟩
  · exact StatusKept.refl _ _
  · intro k hk
    have hk : 16 ≤ k := by simpa [statusBitsOf] using hk
    rw [BitVec.getLsbD_of_ge _ _ hk, BitVec.getLsbD_of_ge _ _ hk]
  · exact statusBitsOf_eq hn hc ▸ he.statusKept

end Sys2Proof.Machine
end

/-! ### What the outcome of a command depends on -/

section
namespace Sys2Proof.Machine

/-- Two outcomes of a command agree on what the command writes: its bits of STATUS, its output buffers and, where the
free values are the same or the register is specified, its output registers. -/
structure SameOutputs (i : Instr) (sameDraw : Prop) (t t' : State) : Prop where
  status : ∀ k ∈ statusBitsOf i, t.status.getLsbD k = t'.status.getLsbD k
  regs : ∀ r ∈ outputRegs i, sameDraw ∨ t.regSpecified r = true → t.regValue r = t'.regValue r
  bufs : ∀ b ∈ outputBufs i, t.buf b = t'.buf b

theorem State.drawReg_congr {s s' : State} (h : s.draws = s'.draws) (r : Reg) : s.drawReg r = s'.drawReg r := by
  simp only [State.drawReg, State.freeReg, h]

/-- A failed DEC.CFG leaves free values in its result registers (60_exceptions.md R206). -/
theorem State.raise_config_regValue (s : State) (e : ErrorCode) {r : Reg} (hr : r ∈ outputRegs .decCfg) :
    (s.raise .config e).regValue r = s.drawReg r := by
  cases r <;> simp [outputRegs] at hr
  case dpi => exact (BitVec.setWidth_eq _).symm
  all_goals rfl

/-- A failed DEC.CFG leaves its result registers unspecified (10_state.md R35). -/
theorem State.raise_config_unspecified (s : State) (e : ErrorCode) {r : Reg} (hr : r ∈ outputRegs .decCfg) :
    (s.raise .config e).regSpecified r = false := by
  cases r <;> simp [outputRegs] at hr <;> simp [State.regSpecified]

/-- A failed DEC.BAT leaves free values in its result registers (60_exceptions.md R206). -/
theorem State.raise_battery_regValue (s : State) (e : ErrorCode) {r : Reg} (hr : r ∈ outputRegs .decBat) :
    (s.raise .battery e).regValue r = s.drawReg r := by
  cases r <;> simp [outputRegs] at hr <;> rfl

/-- A failed DEC.BAT leaves its result registers unspecified (10_state.md R35). -/
theorem State.raise_battery_unspecified (s : State) (e : ErrorCode) {r : Reg} (hr : r ∈ outputRegs .decBat) :
    (s.raise .battery e).regSpecified r = false := by
  cases r <;> simp [outputRegs] at hr <;> simp [State.regSpecified]

/-- An error entry of a command depends on nothing but the free values. -/
theorem sameOutputs_raise {i : Instr} {e : ErrorCode} (he : e ∈ errorsOf i) (s s' : State) :
    SameOutputs i (s.draws = s'.draws) (s.raise (outputGroupOf i) e) (s'.raise (outputGroupOf i) e) where
  status := by cases i <;> cases he <;> simp [statusBitsOf, outcomeBits, outputGroupOf]
  regs := fun r hr h => by
    cases i with
    | nop => cases he
    | clr => cases he
    | decCfg =>
      have hd : s.draws = s'.draws := h.resolve_right (by simp [outputGroupOf, s.raise_config_unspecified e hr])
      calc (s.raise .config e).regValue r = s.drawReg r := s.raise_config_regValue e hr
        _ = s'.drawReg r := State.drawReg_congr hd r
        _ = (s'.raise .config e).regValue r := (s'.raise_config_regValue e hr).symm
    | decBat =>
      have hd : s.draws = s'.draws := h.resolve_right (by simp [outputGroupOf, s.raise_battery_unspecified e hr])
      calc (s.raise .battery e).regValue r = s.drawReg r := s.raise_battery_regValue e hr
        _ = s'.drawReg r := State.drawReg_congr hd r
        _ = (s'.raise .battery e).regValue r := (s'.raise_battery_regValue e hr).symm
    | frame | frameCfg | frameBat | enc1 | enc2 => cases r <;> simp [outputRegs] at hr <;> rfl
  bufs := fun b hb => by
    cases i with
    | nop => cases he
    | clr => cases he
    | decCfg => cases hb
    | decBat => cases hb
    | frame | frameCfg | frameBat | enc1 | enc2 => cases List.mem_singleton.mp hb; rfl

theorem sameOutputs_storePayload {i : Instr} (hi : outputGroupOf i = .payload) (s s' : State) (p : List Byte)
    (n : Word) (b : Bool) :
    SameOutputs i (s.draws = s'.draws) (s.storePayload p n b) (s'.storePayload p n b) := by
  cases i <;> cases hi <;>
    exact ⟨by simp [statusBitsOf, outcomeBits], fun r hr _ => by cases List.mem_singleton.mp hr; rfl,
      fun c hc => by cases List.mem_singleton.mp hc; rfl⟩

/-- A stored classification is the record's where it is known (41_decoder.md R126, R127). -/
theorem State.classified_congr {s s' : State} {value : Option Nat} (h : s.draws = s'.draws ∨ value.isSome = true)
    (n : Nat) : s.classified value n = s'.classified value n := by
  cases value with
  | some m => rfl
  | none => simp only [State.classified, State.freeReg, h.resolve_right (by simp)]

theorem sameOutputs_storeConfig (s s' : State) (r : ConfigRecord) :
    SameOutputs .decCfg (s.draws = s'.draws) (s.storeConfig r) (s'.storeConfig r) where
  status := by simp [statusBitsOf, outcomeBits]
  regs := fun q hq h => by
    by_cases ht : q = .tmoMin
    · subst ht
      exact congrArg (BitVec.setWidth 16) (State.classified_congr (h.imp_right (by simp [State.regSpecified])) 0x18)
    · cases q <;> simp [outputRegs] at hq ht <;> rfl
  bufs := fun _ hb => nomatch hb

theorem sameOutputs_storeBattery (s s' : State) (r : BatteryRecord) :
    SameOutputs .decBat (s.draws = s'.draws) (s.storeBattery r) (s'.storeBattery r) where
  status := by simp [statusBitsOf, outcomeBits]
  regs := fun q hq h => by
    by_cases ht : q = .batPct
    · subst ht
      exact congrArg (BitVec.setWidth 16) (State.classified_congr (h.imp_right (by simp [State.regSpecified])) 0x1C)
    · cases q <;> simp [outputRegs] at hq ht <;> rfl
  bufs := fun _ hb => nomatch hb

theorem sameOutputs_storeRaster {i : Instr} (hi : outputGroupOf i = .raster) {s s' : State}
    (hl : s.padLen = s'.padLen) (hb : s.padByte = s'.padByte) (n : Nat) (packed : List Byte) :
    SameOutputs i (s.draws = s'.draws) (s.storeRaster n packed) (s'.storeRaster n packed) := by
  have hregs : ∀ r ∈ [Reg.packLen, .rasLen],
      (s.storeRaster n packed).regValue r = (s'.storeRaster n packed).regValue r := by
    simp [State.storeRaster, State.regValue, hl]
  have hras : (s.storeRaster n packed).ras = (s'.storeRaster n packed).ras := by simp only [State.storeRaster, hl, hb]
  cases i <;> cases hi <;>
    exact ⟨by simp [statusBitsOf, outcomeBits], fun r hr _ => hregs r hr,
      fun c hc => by cases List.mem_singleton.mp hc; exact hras⟩

/-! ### The commands on the same operands -/

/-- Two states give a command the same operand registers and the same bytes, the free values apart. -/
structure SameInputs (i : Instr) (s s' : State) : Prop where
  regs : ∀ r ∈ registersRead i, s.regValue r = s'.regValue r
  bytes : ∀ bn ∈ regionsRead i s, ∀ k < bn.2, s.operandByte bn.1 k = s'.operandByte bn.1 k

theorem SameInputs.region {i : Instr} {s s' : State} (h : SameInputs i s s') {b : Buf} {n : Nat}
    (hm : (b, n) ∈ regionsRead i s) : s.region b n = s'.region b n := State.region_congr (h.bytes _ hm)

/-- A command answers the same outputs from `s` and from `s'`. -/
def AgreesOn (i : Instr) (s s' : State) : Prop :=
  ∃ t t', exec i s = .next t ∧ exec i s' = .next t' ∧ SameOutputs i (s.draws = s'.draws) t t'

theorem setWidth_byte_injective {a b : Byte} (h : a.setWidth 16 = b.setWidth 16) : a = b := by
  simpa using congrArg (BitVec.setWidth 8) h

theorem frameWith_sameOutputs {i : Instr} (hi : outputGroupOf i = .payload) {s s' : State}
    (hl : s.rawLen = s'.rawLen) (hr : s.region .raw s.rawLen.toNat = s'.region .raw s.rawLen.toNat)
    (pfx : List Byte) (len : Word) :
    SameOutputs i (s.draws = s'.draws) (s.frameWith pfx len) (s'.frameWith pfx len) := by
  have hraise : ∀ e ∈ [ErrorCode.badPrefix, .badLength],
      SameOutputs i (s.draws = s'.draws) (s.raise .payload e) (s'.raise .payload e) := fun e he =>
    hi ▸ sameOutputs_raise (by cases i <;> cases hi <;> exact List.mem_cons_of_mem _ he) s s'
  unfold State.frameWith
  rw [← hl, ← hr]
  rcases frameBytes_cases (s.region .raw s.rawLen.toNat) pfx len.toNat with h | h | ⟨p, b, h, -, -⟩ <;> rw [h]
  · exact hraise .badPrefix (by decide)
  · exact hraise .badLength (by decide)
  · exact sameOutputs_storePayload hi s s' p len b

theorem execFrame_agrees {s s' : State} (h : SameInputs .frame s s') : AgreesOn .frame s s' := by
  have hraw : s.rawLen = s'.rawLen := h.regs .rawLen (by decide)
  have hpfx : s.pfxLen = s'.pfxLen := setWidth_byte_injective (h.regs .pfxLen (by decide))
  have hexp : s.expLen = s'.expLen := h.regs .expLen (by decide)
  simp only [AgreesOn, exec, execFrame, ← hraw, ← hpfx, ← hexp]
  split
  · exact ⟨_, _, rfl, rfl, sameOutputs_raise (i := .frame) (by decide) s s'⟩
  · rename_i hc
    push Not at hc
    have hread : regionsRead .frame s = [(.raw, s.rawLen.toNat), (.pfx, s.pfxLen.toNat)] := if_pos hc
    rw [← h.region (b := .pfx) (by simp [hread])]
    exact ⟨_, _, rfl, rfl, frameWith_sameOutputs rfl hraw (h.region (by simp [hread])) _ _⟩

/-- The framer commands that bring their own response head and length, FRAME.CFG and FRAME.BAT. -/
theorem fixedPrefix_agrees {i : Instr} {pfx : List Byte} {len : Word} (hi : i = .frameCfg ∨ i = .frameBat)
    (hexec : ∀ s : State, exec i s = if Config.rawCap < s.rawLen.toNat then .next (s.raise .payload .badConfig)
      else .next (s.frameWith pfx len)) {s s' : State} (h : SameInputs i s s') : AgreesOn i s s' := by
  have hg : outputGroupOf i = .payload := by rcases hi with rfl | rfl <;> rfl
  have hraw : s.rawLen = s'.rawLen := h.regs .rawLen (by rcases hi with rfl | rfl <;> decide)
  simp only [AgreesOn, hexec, ← hraw]
  split
  · exact ⟨_, _, rfl, rfl, hg ▸ sameOutputs_raise (by rcases hi with rfl | rfl <;> decide) s s'⟩
  · rename_i hc
    have hread : regionsRead i s = [(.raw, s.rawLen.toNat)] := by
      rcases hi with rfl | rfl <;> exact if_pos (not_lt.mp hc)
    exact ⟨_, _, rfl, rfl, frameWith_sameOutputs hg hraw (h.region (by simp [hread])) _ _⟩

theorem execDecCfg_agrees {s s' : State} (h : SameInputs .decCfg s s') : AgreesOn .decCfg s s' := by
  have hpay : s.payLen = s'.payLen := h.regs .payLen (by decide)
  simp only [AgreesOn, exec, execDecCfg, ← hpay]
  split
  · exact ⟨_, _, rfl, rfl, sameOutputs_raise (i := .decCfg) (by decide) s s'⟩
  · rename_i hc
    have hread : regionsRead .decCfg s = [(.pay, Config.lenConfig)] := if_pos (not_not.mp hc)
    rw [← h.region (b := .pay) (by simp [hread]), s.decodeConfig_region]
    exact ⟨_, _, rfl, rfl, sameOutputs_storeConfig s s' _⟩

theorem execDecBat_agrees {s s' : State} (h : SameInputs .decBat s s') : AgreesOn .decBat s s' := by
  have hpay : s.payLen = s'.payLen := h.regs .payLen (by decide)
  simp only [AgreesOn, exec, execDecBat, ← hpay]
  split
  · exact ⟨_, _, rfl, rfl, sameOutputs_raise (i := .decBat) (by decide) s s'⟩
  · rename_i hc
    have hread : regionsRead .decBat s = [(.pay, Config.lenBattery)] := if_pos (not_not.mp hc)
    rw [← h.region (b := .pay) (by simp [hread]), s.decodeBattery_region]
    exact ⟨_, _, rfl, rfl, sameOutputs_storeBattery s s' _⟩

theorem rasterLength_congr {s s' : State} (hl : s.padLen = s'.padLen) (hn : s.pixelCount = s'.pixelCount) (bpp : Nat) :
    rasterLength bpp s = rasterLength bpp s' := by
  simp only [rasterLength, hl, hn]

/-- What the same inputs of an ENC command fix: the grid's size and the padding. -/
theorem SameInputs.grid {i : Instr} (hi : registersRead i = [.imgW, .imgH, .padLen, .padByte]) {s s' : State}
    (h : SameInputs i s s') :
    s.imgW = s'.imgW ∧ s.imgH = s'.imgH ∧ s.padLen = s'.padLen ∧ s.padByte = s'.padByte ∧
      s.pixelCount = s'.pixelCount := by
  have hw : s.imgW = s'.imgW := h.regs .imgW (by simp [hi])
  have hh : s.imgH = s'.imgH := h.regs .imgH (by simp [hi])
  exact ⟨hw, hh, h.regs .padLen (by simp [hi]), setWidth_byte_injective (h.regs .padByte (by simp [hi])),
    by simp only [State.pixelCount, hw, hh]⟩

theorem execEnc1_agrees {s s' : State} (h : SameInputs .enc1 s s') : AgreesOn .enc1 s s' := by
  obtain ⟨hw, hh, hl, hb, hn⟩ := h.grid rfl
  simp only [AgreesOn, exec, execEnc1, ← rasterLength_congr hl hn]
  rcases rasterLength_cases 1 s with ⟨e, he, hr⟩ | ⟨hr, hcap, hfit⟩ <;> rw [hr]
  · exact ⟨_, _, rfl, rfl, sameOutputs_raise (i := .enc1) he s s'⟩
  · have hread : regionsRead .enc1 s = [(.pix, s.pixelCount)] := if_pos ⟨hcap, hfit⟩
    have hs : s.samples1 = s'.samples1 := by
      rw [State.samples1, State.samples1, h.region (by simp [hread]), hw, hh, hn]
    rw [← hs, ← hb]
    exact ⟨_, _, rfl, rfl, sameOutputs_storeRaster rfl hl hb _ _⟩

theorem execEnc2_agrees {s s' : State} (h : SameInputs .enc2 s s') : AgreesOn .enc2 s s' := by
  obtain ⟨-, -, hl, hb, hn⟩ := h.grid rfl
  simp only [AgreesOn, exec, execEnc2, ← rasterLength_congr hl hn]
  rcases rasterLength_cases 2 s with ⟨e, he, hr⟩ | ⟨hr, hcap, hfit⟩ <;> rw [hr]
  · exact ⟨_, _, rfl, rfl, sameOutputs_raise (i := .enc2) he s s'⟩
  · have hread : regionsRead .enc2 s = [(.pix, s.pixelCount)] := if_pos ⟨hcap, hfit⟩
    have hs : s.samples2 = s'.samples2 := by rw [State.samples2, State.samples2, h.region (by simp [hread]), hn]
    rw [← hs, ← hb]
    exact ⟨_, _, rfl, rfl, sameOutputs_storeRaster rfl hl hb _ _⟩

theorem execClr_agrees (s s' : State) : AgreesOn .clr s s' :=
  ⟨_, _, rfl, rfl, fun _ _ => rfl, fun r _ _ => by cases r <;> rfl, fun b _ => by cases b <;> rfl⟩

theorem execNop_agrees (s s' : State) : AgreesOn .nop s s' :=
  ⟨s, s', rfl, rfl, by simp [statusBitsOf], by simp [outputRegs], by simp [outputBufs]⟩

/-- The outputs of a command depend on its inputs and the free values alone (10_state.md R36, R37). -/
theorem exec_agrees {i : Instr} {s s' : State} (h : SameInputs i s s') : AgreesOn i s s' := by
  cases i with
  | nop => exact execNop_agrees s s'
  | clr => exact execClr_agrees s s'
  | frame => exact execFrame_agrees h
  | frameCfg => exact fixedPrefix_agrees (.inl rfl) (fun _ => rfl) h
  | frameBat => exact fixedPrefix_agrees (.inr rfl) (fun _ => rfl) h
  | decCfg => exact execDecCfg_agrees h
  | decBat => exact execDecBat_agrees h
  | enc1 => exact execEnc1_agrees h
  | enc2 => exact execEnc2_agrees h

/-! ### The command again, on what it left -/

/-- No command writes a register that it reads (10_state.md R38). -/
theorem notMem_outputRegs_of_read {i : Instr} {r : Reg} (h : r ∈ registersRead i) :
    r ≠ .status ∧ r ∉ outputRegs i := by
  cases i <;> cases r <;> simp [registersRead] at h <;> decide

/-- No command writes a buffer that it reads (10_state.md R38). -/
theorem notMem_outputBufs_of_read {i : Instr} {s : State} {bn : Buf × Nat} (h : bn ∈ regionsRead i s) :
    bn.1 ∉ outputBufs i := by
  obtain ⟨b, n⟩ := bn
  cases i <;> cases b <;> simp [regionsRead, outputBufs] at h ⊢

/-- No command but CLR writes a configuration register (10_state.md R38). -/
theorem config_register_kept {i : Instr} (hi : i ≠ .clr) {r : Reg}
    (hr : r ∈ [Reg.cmd, .imgW, .imgH, .padLen, .padByte, .rawLen, .pfxLen, .expLen]) :
    r ≠ .status ∧ r ∉ outputRegs i := by
  cases r <;> simp at hr <;> cases i <;> simp at hi <;> decide

theorem exec_keeps_operand_registers {i : Instr} {s t : State} (h : exec i s = .next t) {r : Reg}
    (hr : r ∈ registersRead i) : t.regValue r = s.regValue r :=
  exec_regValue_kept h (notMem_outputRegs_of_read hr).1 (notMem_outputRegs_of_read hr).2

theorem exec_keeps_operand_bytes {i : Instr} {s t : State} (h : exec i s = .next t) {bn : Buf × Nat}
    (hbn : bn ∈ regionsRead i s) (k : Nat) : t.byte bn.1 k = s.byte bn.1 k :=
  congrArg (Mem.read · k) (exec_buf_kept h (notMem_outputBufs_of_read hbn))

/-- A command whose inputs are written finds the same inputs in what it left. -/
theorem sameInputs_of_exec {i : Instr} {s t : State} (hw : InputsWritten i s) (h : exec i s = .next t) :
    SameInputs i s t where
  regs := fun _ hr => (exec_keeps_operand_registers h hr).symm
  bytes := fun bn hbn k hk => by
    obtain ⟨v, hv⟩ := Option.isSome_iff_exists.mp (hw bn hbn k hk)
    simp only [State.operandByte, exec_keeps_operand_bytes h hbn k, hv, Option.getD_some]

/-- A command issued again on what it left ends with the same STATUS, buffers and specified registers. -/
theorem exec_again {i : Instr} {s t : State} (hw : InputsWritten i s) (h : exec i s = .next t) :
    ∃ u, exec i t = .next u ∧ u.status = t.status ∧ (∀ b, u.buf b = t.buf b) ∧
      ∀ r, t.regSpecified r = true → u.regValue r = t.regValue r := by
  obtain ⟨t', u, ht, hu, same⟩ := exec_agrees (sameInputs_of_exec hw h)
  cases ht.symm.trans h
  have hstatus : u.status = t.status := BitVec.eq_of_getLsbD_eq fun k _ => by
    by_cases hm : k ∈ statusBitsOf i
    · exact (same.status k hm).symm
    · exact exec_statusKept hu k hm
  refine ⟨u, hu, hstatus, fun b => ?_, fun r hr => ?_⟩
  · by_cases hm : b ∈ outputBufs i
    · exact (same.bufs b hm).symm
    · exact exec_buf_kept hu hm
  · by_cases hs : r = .status
    · subst hs; exact hstatus
    · by_cases hm : r ∈ outputRegs i
      · exact (same.regs r hm (.inr hr)).symm
      · exact exec_regValue_kept hu hs hm

end Sys2Proof.Machine
end

/-! ### What a step can change -/

section
namespace Sys2Proof.Machine
open Sys2Proof.Machine.Claim

theorem mem_writersOfReg_of_output {i : Instr} {r : Reg} (h : r ∈ outputRegs i) : i ∈ writersOfReg r := by
  cases i <;> cases r <;> simp [outputRegs] at h <;> decide

theorem mem_writersOfReg_status {i : Instr} (h : i ≠ .nop) : i ∈ writersOfReg .status := by
  cases i <;> simp [writersOfReg] at h ⊢

theorem mem_writersOfBuf_of_output {i : Instr} {b : Buf} (h : b ∈ outputBufs i) : i ∈ writersOfBuf b := by
  cases i <;> cases b <;> simp [outputBufs] at h <;> decide

/-- A command that changes a register is one that the table names for it (10_state.md R21). -/
theorem mem_writersOfReg_of_exec {i : Instr} {s t : State} (h : exec i s = .next t) {r : Reg}
    (hr : t.regValue r ≠ s.regValue r) : i ∈ writersOfReg r := by
  by_cases hs : r = .status
  · subst hs
    refine mem_writersOfReg_status fun hn => hr ?_
    subst hn; cases h; rfl
  · exact mem_writersOfReg_of_output (not_not.mp fun hm => hr (exec_regValue_kept h hs hm))

/-- A command that changes a byte of a buffer is one that the table names for it (10_state.md R30). -/
theorem mem_writersOfBuf_of_exec {i : Instr} {s t : State} (h : exec i s = .next t) {b : Buf} {k : Nat}
    (hb : t.byte b k ≠ s.byte b k) : i ∈ writersOfBuf b :=
  mem_writersOfBuf_of_output (not_not.mp fun hm => hb (congrArg (Mem.read · k) (exec_buf_kept h hm)))

/-- An illegal word changes STATUS alone (60_exceptions.md R205). -/
theorem State.raise_nothing_regValue (s : State) (e : ErrorCode) {r : Reg} (hr : r ≠ .status) :
    (s.raise .nothing e).regValue r = s.regValue r := by
  cases r <;> simp at hr <;> rfl

@[simp] theorem State.buf_raise_nothing (s : State) (e : ErrorCode) (b : Buf) :
    (s.raise .nothing e).buf b = s.buf b := by cases b <;> rfl

/-- A step that changed something had a transaction to perform. -/
theorem pending_of_step_ne {s t : State} (h : step s = .next t) (hne : t ≠ s) :
    ∃ x rest, s.pending = x :: rest ∧ transact x (s.withPending rest) = .next t := by
  cases hp : s.pending with
  | nil =>
    rw [step_of_idle hp] at h
    cases h
    exact absurd rfl hne
  | cons x rest => exact ⟨x, rest, rfl, step_of_pending hp ▸ h⟩

/-- What a transaction that changes a register was (10_state.md R21). -/
theorem transact_changes_reg {x : HostTxn} {s t : State} {r : Reg} (h : transact x s = .next t)
    (hr : t.regValue r ≠ s.regValue r) :
    (regWritable r = true ∧ ∃ v, x = .regWrite (regNumber r) v) ∨
    (∃ i ∈ writersOfReg r, x = .regWrite 0x00 (encode i)) ∨
    (r = .status ∧ ∃ w, x = .regWrite 0x00 w ∧ ∀ i, w ≠ encode i) := by
  obtain ⟨t', ht, hc⟩ := transact_cases x s
  cases ht.symm.trans h
  rcases hc with rfl | ⟨n, q, rfl, hn, rfl⟩ | ⟨b, k, c, rfl, hb, hk, rfl⟩ | ⟨b, k, v, c, rfl, hb, hw, hk, rfl⟩ |
    ⟨n, v, q, rfl, hn, hw, -, rfl⟩ | ⟨n, v, i, u, rfl, hn, hd, hu, rfl⟩ | ⟨n, v, e, rfl, hn, hd, rfl⟩
  · simp at hr
  · simp at hr
  · simp at hr
  · simp at hr
  · have hq : r = q := not_not.mp fun hq => hr (by simp [State.regValue_storeReg_ne s v hq])
    exact .inl ⟨hq ▸ hw, v, by rw [hq, regNumber_of_regOfNumber hn]⟩
  · have hn := regNumber_of_regOfNumber hn
    by_cases hq : r = .cmd
    · exact .inl ⟨hq ▸ rfl, v, by rw [hq, hn]⟩
    · rw [State.regValue_respond, ← State.regValue_storeReg_ne s v hq] at hr
      exact .inr (.inl ⟨i, mem_writersOfReg_of_exec hu hr, by rw [← hn, encode_of_decode hd]; rfl⟩)
  · have hn := regNumber_of_regOfNumber hn
    by_cases hq : r = .cmd
    · exact .inl ⟨hq ▸ rfl, v, by rw [hq, hn]⟩
    · rw [State.regValue_respond, ← State.regValue_storeReg_ne s v hq] at hr
      have hs : r = .status := not_not.mp fun hs => hr (State.raise_nothing_regValue _ _ hs)
      exact .inr (.inr ⟨hs, v, by rw [← hn]; rfl, ne_encode_of_decode_error hd⟩)

/-- What a transaction that changes a byte of a buffer was (10_state.md R30). -/
theorem transact_changes_byte {x : HostTxn} {s t : State} {b : Buf} {k : Nat} (h : transact x s = .next t)
    (hb : t.byte b k ≠ s.byte b k) :
    (b ≠ .ras ∧ ∃ v, x = .bufWrite (bufId b) k v) ∨ (∃ i ∈ writersOfBuf b, x = .regWrite 0x00 (encode i)) := by
  obtain ⟨t', ht, hc⟩ := transact_cases x s
  cases ht.symm.trans h
  rcases hc with rfl | ⟨n, q, rfl, hn, rfl⟩ | ⟨n, j, c, rfl, hn, hj, rfl⟩ | ⟨n, j, v, c, rfl, hn, hw, hj, rfl⟩ |
    ⟨n, v, q, rfl, hn, hw, -, rfl⟩ | ⟨n, v, i, u, rfl, hn, hd, hu, rfl⟩ | ⟨n, v, e, rfl, hn, hd, rfl⟩
  · simp [State.byte] at hb
  · simp [State.byte] at hb
  · simp [State.byte] at hb
  · have hc : b = c := not_not.mp fun hc => hb (by simp [State.byte, State.buf_setBuf_ne s _ hc])
    subst hc
    have hk : k = j := not_not.mp fun hk => hb (by simp [State.byte, Mem.read_write_ne _ v hk])
    exact .inl ⟨fun hras => by simp [hras, bufWritable] at hw, v, by rw [hk, bufId_of_bufOfId hn]⟩
  · simp [State.byte] at hb
  · have hn := regNumber_of_regOfNumber hn
    refine .inr ⟨i, mem_writersOfBuf_of_exec hu (b := b) (k := k) ?_, by rw [← hn, encode_of_decode hd]; rfl⟩
    simpa [State.byte] using hb
  · simp [State.byte] at hb

/-! ### A transaction and the host's side -/

/-- A write of CMD performs the command of its word at the state in which CMD holds it (10_state.md R22). -/
theorem transact_commandWrite {w : Word} {i : Instr} (h : decode w = .ok i) (s : State) :
    transact (.regWrite 0x00 w) s = respondAfter (exec i (s.storeReg .cmd w)) := by
  change respondAfter (performWord w (s.storeReg .cmd w)) = _
  rw [performWord, h]

/-- Every transaction is answered once and leaves the later ones (10_state.md R24). -/
theorem transact_host (x : HostTxn) (s : State) :
    ∃ t r, transact x s = .next t ∧ t.pending = s.pending ∧ t.position = s.position + 1 ∧
      t.responses = r :: s.responses := by
  have answer : ∀ {u : State} (r : Response), SameHostSide s u → transact x s = .next (u.respond r) →
      ∃ t r, transact x s = .next t ∧ t.pending = s.pending ∧ t.position = s.position + 1 ∧
        t.responses = r :: s.responses := fun {u} r ⟨hp, hn, hl⟩ ht =>
    ⟨u.respond r, r, ht, hp, congrArg (· + 1) hn, congrArg (r :: ·) hl⟩
  obtain ⟨t, ht, hc⟩ := transact_cases x s
  rcases hc with rfl | ⟨n, q, -, -, rfl⟩ | ⟨b, k, c, -, -, -, rfl⟩ | ⟨b, k, v, c, -, -, -, -, rfl⟩ |
    ⟨n, v, q, -, -, -, -, rfl⟩ | ⟨n, v, i, u, -, -, -, hu, rfl⟩ | ⟨n, v, e, -, -, -, rfl⟩
  · exact answer _ ⟨rfl, rfl, rfl⟩ ht
  · exact answer _ ⟨rfl, rfl, rfl⟩ ht
  · exact answer _ ⟨rfl, rfl, rfl⟩ ht
  · exact answer (u := (s.setBuf _ _).nextDraw) _ (s.setBuf_host _ _) ht
  · exact answer (u := (s.storeReg _ _).nextDraw) _ (s.storeReg_host _ _) ht
  · exact answer _ (exec_host hu :) ht
  · exact answer (u := (s.storeReg .cmd v).raise _ _) _ ⟨rfl, rfl, rfl⟩ ht

/-- States with the same registers and buffers have the same block. -/
theorem State.block_ext {s t : State} (hr : ∀ r, s.regValue r = t.regValue r) (hb : ∀ b, s.buf b = t.buf b) :
    s.block = t.block := by
  have byte : ∀ {a b : Byte}, a.setWidth 16 = b.setWidth 16 → a = b := setWidth_byte_injective
  have pair : ∀ {a b : BitVec 2}, a.setWidth 16 = b.setWidth 16 → a = b := fun h => by
    simpa using congrArg (BitVec.setWidth 2) h
  rw [State.block, State.block, State.mk.injEq]
  exact ⟨hr .cmd, hr .status, hr .imgW, hr .imgH, hr .padLen, byte (hr .padByte), hr .packLen, hr .rasLen,
    hr .rawLen, byte (hr .pfxLen), hr .expLen, hr .payLen, hr .dpi, byte (hr .hwMaj), byte (hr .hwMin),
    byte (hr .hwPat), byte (hr .fwMaj), byte (hr .fwMin), byte (hr .fwPat), byte (hr .tmoRaw), byte (hr .tmoMin),
    byte (hr .beepRaw), pair (hr .beep), byte (hr .batRaw), byte (hr .batPct), byte (hr .chgRaw), pair (hr .chg),
    hb .pix, hb .ras, hb .raw, hb .pfx, hb .pay, rfl, rfl, rfl, rfl⟩

theorem outputGroupOf_ne_nothing {i : Instr} (hn : i ≠ .nop) (hc : i ≠ .clr) : outputGroupOf i ≠ .nothing := by
  cases i <;> simp [outputGroupOf] at hn hc ⊢

theorem Effect.draws {s t : State} {g : OutputGroup} (h : Effect s g t) (hg : g ≠ .nothing) :
    t.draws = s.draws + 1 := by
  cases h with
  | raise g e => cases g <;> simp at hg <;> rfl
  | payload => rfl
  | config => rfl
  | battery => rfl
  | raster => rfl

/-- Every command but NOP uses one value of the counter of free values (log 7). -/
theorem exec_draws {i : Instr} {s t : State} (h : exec i s = .next t) :
    t.draws = if i = .nop then s.draws else s.draws + 1 := by
  rcases exec_effect h with ⟨rfl, rfl⟩ | ⟨rfl, rfl⟩ | ⟨hn, hc, he⟩
  · rfl
  · rfl
  · rw [if_neg hn, he.draws (outputGroupOf_ne_nothing hn hc)]

/-- A command ends with the same block from two states with the same block and the same free values. -/
theorem exec_same_block (i : Instr) {s s' : State} (hb : s.block = s'.block) (hd : s.draws = s'.draws) :
    ∃ t t', exec i s = .next t ∧ exec i s' = .next t' ∧ t.block = t'.block ∧ t.draws = t'.draws := by
  have inputs : SameInputs i s s' :=
    ⟨fun r _ => State.regValue_of_block hb r, fun bn _ k _ => by
      simp only [State.operandByte, State.byte, State.drawByte, State.buf_of_block hb, hd]⟩
  obtain ⟨t, t', ht, ht', same⟩ := exec_agrees inputs
  refine ⟨t, t', ht, ht', State.block_ext (fun r => ?_) (fun b => ?_), by rw [exec_draws ht, exec_draws ht', hd]⟩
  · by_cases hs : r = .status
    · subst hs
      refine BitVec.eq_of_getLsbD_eq fun k _ => ?_
      by_cases hm : k ∈ statusBitsOf i
      · exact same.status k hm
      · exact (exec_statusKept ht k hm).trans
          ((congrArg (BitVec.getLsbD · k) (State.regValue_of_block hb .status)).trans (exec_statusKept ht' k hm).symm)
    · by_cases hm : r ∈ outputRegs i
      · exact same.regs r hm (.inl hd)
      · rw [exec_regValue_kept ht hs hm, exec_regValue_kept ht' hs hm, State.regValue_of_block hb]
  · by_cases hm : b ∈ outputBufs i
    · exact same.bufs b hm
    · rw [exec_buf_kept ht hm, exec_buf_kept ht' hm, State.buf_of_block hb]

/-- The same block and free values with another host's side. -/
def State.atHost (s : State) (l : List HostTxn) (n : Nat) (rs : List Response) : State :=
  { s with pending := l, position := n, responses := rs }

/-- Two states with the same block and free values differ in the host's side only. -/
theorem State.eq_atHost {s s' : State} (hb : s.block = s'.block) (hd : s.draws = s'.draws) :
    s' = s.atHost s'.pending s'.position s'.responses := by
  have restore : ∀ u : State, u = { u.block with
      pending := u.pending, position := u.position, responses := u.responses, draws := u.draws } := fun _ => rfl
  rw [restore s', ← hb, ← hd]
  rfl

/-- A transaction leaves the same block and answers the same whatever the host's side is (10_state.md R24). -/
theorem transact_atHost (x : HostTxn) (s : State) (l : List HostTxn) (n : Nat) (rs : List Response) :
    ∃ t t', transact x s = .next t ∧ transact x (s.atHost l n rs) = .next t' ∧ t.block = t'.block ∧
      t.draws = t'.draws ∧ t.responses.head? = t'.responses.head? := by
  cases x with
  | regRead m =>
    simp only [transact, hostRegRead]
    cases regOfNumber m with
    | none => exact ⟨_, _, rfl, rfl, rfl, rfl, rfl⟩
    | some r => exact ⟨_, _, rfl, rfl, rfl, rfl, by cases r <;> rfl⟩
  | bufRead m k =>
    simp only [transact, hostBufRead]
    cases bufOfId m with
    | none => exact ⟨_, _, rfl, rfl, rfl, rfl, rfl⟩
    | some b =>
      dsimp only
      split
      · exact ⟨_, _, rfl, rfl, rfl, rfl, by cases b <;> rfl⟩
      · exact ⟨_, _, rfl, rfl, rfl, rfl, rfl⟩
  | bufWrite m k v =>
    simp only [transact, hostBufWrite]
    cases bufOfId m with
    | none => exact ⟨_, _, rfl, rfl, rfl, rfl, rfl⟩
    | some b =>
      dsimp only
      split
      · exact ⟨_, _, rfl, rfl, by cases b <;> rfl, by cases b <;> rfl, rfl⟩
      · exact ⟨_, _, rfl, rfl, rfl, rfl, rfl⟩
  | regWrite m v =>
    simp only [transact, hostRegWrite, performWord]
    cases regOfNumber m with
    | none => exact ⟨_, _, rfl, rfl, rfl, rfl, rfl⟩
    | some r =>
      dsimp only
      split
      · split
        · cases decode v with
          | error e => exact ⟨_, _, rfl, rfl, rfl, rfl, rfl⟩
          | ok i =>
            obtain ⟨t, t', ht, ht', hb, hd⟩ :=
              exec_same_block i (s := s.storeReg .cmd v) (s' := (s.atHost l n rs).storeReg .cmd v) rfl rfl
            exact ⟨_, _, congrArg respondAfter ht, congrArg respondAfter ht', hb, hd, rfl⟩
        · exact ⟨_, _, rfl, rfl, by cases r <;> rfl, by cases r <;> rfl, rfl⟩
      · exact ⟨_, _, rfl, rfl, rfl, rfl, rfl⟩

end Sys2Proof.Machine
end

/-! ### The invariants of the block -/

section
namespace Sys2Proof.Machine
open Sys2Proof.Machine.Claim

/-! #### Buffers in canonical form -/

theorem BuffersCanonical.of_bufs {s t : State} (hs : BuffersCanonical s)
    (ht : ∀ b, t.buf b = s.buf b ∨ Mem.wf (bufCapacity b) (t.buf b)) : BuffersCanonical t := fun b => by
  rcases ht b with h | h
  · exact h ▸ hs b
  · exact h

theorem BuffersCanonical.setBuf {s : State} (hs : BuffersCanonical s) {b : Buf} {m : Mem}
    (hm : Mem.wf (bufCapacity b) m) : BuffersCanonical (s.setBuf b m) := hs.of_bufs fun c => by
  by_cases hc : c = b
  · subst hc; exact .inr (by simpa using hm)
  · exact .inl (s.buf_setBuf_ne m hc)

theorem buffersCanonical_reset : BuffersCanonical State.reset := fun b => by cases b <;> exact Mem.wf_nil _

/-- An error entry empties its group's buffer and keeps the others (60_exceptions.md R206). -/
theorem State.buf_raise (s : State) (g : OutputGroup) (e : ErrorCode) (b : Buf) :
    (s.raise g e).buf b = s.buf b ∨ (s.raise g e).buf b = [] := by
  cases g <;> cases b <;> simp [State.raise, State.invalidate, State.invalidatePayload, State.invalidateRaster,
    State.invalidateConfig, State.invalidateBattery, State.buf]

theorem Effect.buffersCanonical {s t : State} {g : OutputGroup} (h : Effect s g t) (hs : BuffersCanonical s) :
    BuffersCanonical t := by
  cases h with
  | raise g e => exact hs.of_bufs fun b => (s.buf_raise g e b).imp_right fun hnil => by rw [hnil]; exact Mem.wf_nil _
  | payload p n _ hp hn =>
    have hpay : p.length ≤ Config.payCap := by simp only [Config.payCap]; omega
    exact hs.setBuf (b := .pay) (Mem.wf_ofBytes hpay)
  | config => exact fun b => hs b
  | battery => exact fun b => hs b
  | raster n packed hcap hfit =>
    have hras : (pad packed s.padLen.toNat s.padByte).length ≤ Config.rasCap := (length_pad _ hfit).trans_le hcap
    exact hs.setBuf (b := .ras) (Mem.wf_ofBytes hras)

/-! #### STATUS -/

theorem errorNumber_le (e : ErrorCode) : (errorNumber e).toNat ≤ 6 := by cases e <;> decide

/-- Every effect ends with an outcome in OK and ERR (10_state.md R36). -/
theorem Effect.status_eq_setOutcome {s t : State} {g : OutputGroup} (h : Effect s g t) :
    ∃ w e, t.status = Status.setOutcome w e := by
  cases h with
  | raise g e => exact ⟨_, e, rfl⟩
  | payload => exact ⟨_, _, rfl⟩
  | config => exact ⟨_, _, rfl⟩
  | battery => exact ⟨_, _, rfl⟩
  | raster => exact ⟨_, _, rfl⟩

/-- CFG_VALID and TMO_KNOWN belong to DEC.CFG (10_state.md R36). -/
theorem Effect.cfgFlags_kept {s t : State} {g : OutputGroup} (h : Effect s g t) (hg : g ≠ .config) :
    Status.cfgValid t.status = Status.cfgValid s.status ∧ Status.tmoKnown t.status = Status.tmoKnown s.status :=
  ⟨h.statusKept 8 (by cases g <;> simp at hg <;> decide), h.statusKept 10 (by cases g <;> simp at hg <;> decide)⟩

/-- BAT_VALID and BAT_KNOWN belong to DEC.BAT (10_state.md R36). -/
theorem Effect.batFlags_kept {s t : State} {g : OutputGroup} (h : Effect s g t) (hg : g ≠ .battery) :
    Status.batValid t.status = Status.batValid s.status ∧ Status.batKnown t.status = Status.batKnown s.status :=
  ⟨h.statusKept 9 (by cases g <;> simp at hg <;> decide), h.statusKept 11 (by cases g <;> simp at hg <;> decide)⟩

/-- DEC.CFG leaves CFG_VALID 1 or TMO_KNOWN 0 (41_decoder.md R126, 60_exceptions.md R206). -/
theorem Effect.cfgFlags_of_config {s t : State} (h : Effect s .config t) :
    Status.tmoKnown t.status = true → Status.cfgValid t.status = true := by
  cases h with
  | raise _ e => simp
  | config r => simp

/-- DEC.BAT leaves BAT_VALID 1 or BAT_KNOWN 0 (41_decoder.md R127, 60_exceptions.md R206). -/
theorem Effect.batFlags_of_battery {s t : State} (h : Effect s .battery t) :
    Status.batKnown t.status = true → Status.batValid t.status = true := by
  cases h with
  | raise _ e => simp
  | battery r => simp

theorem statusLegal_reset : StatusLegal State.reset.status :=
  ⟨by decide, by decide, by decide, by decide, by decide⟩

theorem Effect.statusLegal {s t : State} {g : OutputGroup} (h : Effect s g t) (hs : StatusLegal s.status) :
    StatusLegal t.status where
  reserved := fun k hk => by
    have hkept : k ∉ statusBitsOfGroup g := by revert k; cases g <;> decide
    rw [h.statusKept k hkept, hs.reserved k hk]
  code := by
    obtain ⟨w, e, ht⟩ := h.status_eq_setOutcome
    rw [ht, Status.err_setOutcome]
    exact errorNumber_le e
  okNoError := by
    obtain ⟨w, e, ht⟩ := h.status_eq_setOutcome
    rw [ht, Status.err_setOutcome, Status.ok_setOutcome]
    cases e <;> simp [errorNumber]
  tmo := by
    by_cases hg : g = .config
    · subst hg; exact h.cfgFlags_of_config
    · rw [(h.cfgFlags_kept hg).1, (h.cfgFlags_kept hg).2]; exact hs.tmo
  bat := by
    by_cases hg : g = .battery
    · subst hg; exact h.batFlags_of_battery
    · rw [(h.batFlags_kept hg).1, (h.batFlags_kept hg).2]; exact hs.bat

theorem State.status_of_block {s t : State} (h : s.block = t.block) : s.status = t.status :=
  State.regValue_of_block h .status

theorem State.status_setBuf (s : State) (b : Buf) (m : Mem) : (s.setBuf b m).status = s.status :=
  s.regValue_setBuf b m .status

theorem State.status_storeReg (s : State) {r : Reg} (hr : regWritable r = true) (v : Word) :
    (s.storeReg r v).status = s.status :=
  s.regValue_storeReg_ne (q := .status) v (fun h => by rw [← h] at hr; cases hr)

/-! #### The result groups -/

/-- What the invariant of the config group speaks of is the same in two states. -/
structure SameConfigGroup (s t : State) : Prop where
  valid : Status.cfgValid t.status = Status.cfgValid s.status
  known : Status.tmoKnown t.status = Status.tmoKnown s.status
  tmoRaw : t.tmoRaw = s.tmoRaw
  tmoMin : t.tmoMin = s.tmoMin
  beepRaw : t.beepRaw = s.beepRaw
  beep : t.beep = s.beep

/-- What the invariant of the battery group speaks of is the same in two states. -/
structure SameBatteryGroup (s t : State) : Prop where
  valid : Status.batValid t.status = Status.batValid s.status
  known : Status.batKnown t.status = Status.batKnown s.status
  batRaw : t.batRaw = s.batRaw
  batPct : t.batPct = s.batPct
  chgRaw : t.chgRaw = s.chgRaw
  chg : t.chg = s.chg

theorem ConfigGroupDecoded.congr {s t : State} (hs : ConfigGroupDecoded s) (h : SameConfigGroup s t) :
    ConfigGroupDecoded t where
  known := by rw [h.valid, h.known, h.tmoRaw]; exact hs.known
  minutes := by rw [h.valid, h.known, h.tmoRaw, h.tmoMin]; exact hs.minutes
  beep := by rw [h.valid, h.beep, h.beepRaw]; exact hs.beep

theorem BatteryGroupDecoded.congr {s t : State} (hs : BatteryGroupDecoded s) (h : SameBatteryGroup s t) :
    BatteryGroupDecoded t where
  known := by rw [h.valid, h.known, h.batRaw]; exact hs.known
  percent := by rw [h.valid, h.known, h.batRaw, h.batPct]; exact hs.percent
  charging := by rw [h.valid, h.chg, h.chgRaw]; exact hs.charging

theorem ConfigGroupDecoded.of_invalid {s : State} (h : Status.cfgValid s.status = false) : ConfigGroupDecoded s :=
  ⟨by simp [h], by simp [h], by simp [h]⟩

theorem BatteryGroupDecoded.of_invalid {s : State} (h : Status.batValid s.status = false) : BatteryGroupDecoded s :=
  ⟨by simp [h], by simp [h], by simp [h]⟩

theorem timeoutMinutes_table :
    ∀ b : Byte, ∀ m ∈ timeoutMinutes b, (b.toNat, (BitVec.ofNat 8 m).toNat) ∈ [(0, 0), (1, 15), (2, 30), (3, 60)] := by
  decide

/-- The two digits of a battery byte (41_decoder.md R124). -/
theorem batteryPercent_eq (b : Byte) : batteryPercent b =
    if b.toNat / 16 ≤ 9 ∧ b.toNat % 16 ≤ 9 then some (10 * (b.toNat / 16) + b.toNat % 16) else none := by
  have hi : (b.extractLsb' 4 4).toNat = b.toNat / 16 := by
    have := b.isLt
    rw [BitVec.extractLsb'_toNat, Nat.shiftRight_eq_div_pow]
    omega
  have lo : (b.extractLsb' 0 4).toNat = b.toNat % 16 := by simp
  simp only [batteryPercent, hi, lo]
  split
  · rw [if_neg (by omega)]
  · rw [if_pos (by omega)]

/-- A Bool3 register holds the raw byte, or 2 from 2 on (41_decoder.md R122, 10_state.md R33). -/
theorem bool3Number_bool3 (b : Byte) : (bool3Number (bool3 b)).toNat = min b.toNat 2 := by
  by_cases h0 : b = 0#8
  · subst h0; rfl
  · by_cases h1 : b = 1#8
    · subst h1; rfl
    · have : 2 ≤ b.toNat := by
        have := mt BitVec.eq_of_toNat_eq h0
        have := mt BitVec.eq_of_toNat_eq h1
        simp only [BitVec.toNat_ofNat] at *
        omega
      simp [bool3, h0, h1, bool3Number, this]

theorem configGroupDecoded_storeConfig {s : State} {r : ConfigRecord}
    (h : decodeConfig (s.region .pay Config.lenConfig) = .ok r) : ConfigGroupDecoded (s.storeConfig r) := by
  rw [s.decodeConfig_region] at h
  cases h
  refine ⟨fun _ => ?_, fun _ hk => ?_, fun _ => bool3Number_bool3 _⟩
  · simpa [State.storeConfig] using timeoutMinutes_isSome (s.operandByte .pay 8)
  · obtain ⟨m, hm⟩ := Option.isSome_iff_exists.mp (by simpa using hk)
    have table := timeoutMinutes_table _ m hm
    simpa only [State.storeConfig, State.classified, hm] using table

theorem batteryGroupDecoded_storeBattery {s : State} {r : BatteryRecord}
    (h : decodeBattery (s.region .pay Config.lenBattery) = .ok r) : BatteryGroupDecoded (s.storeBattery r) := by
  rw [s.decodeBattery_region] at h
  cases h
  have hp := batteryPercent_eq (s.operandByte .pay 0)
  by_cases hd : (s.operandByte .pay 0).toNat / 16 ≤ 9 ∧ (s.operandByte .pay 0).toNat % 16 ≤ 9
  · rw [if_pos hd] at hp
    refine ⟨fun _ => ?_, fun _ _ => ?_, fun _ => bool3Number_bool3 _⟩
    · simpa [hp, State.storeBattery] using hd
    · simp only [State.storeBattery, State.classified, hp, BitVec.toNat_ofNat]
      omega
  · rw [if_neg hd] at hp
    refine ⟨fun _ => ?_, fun _ hk => ?_, fun _ => bool3Number_bool3 _⟩
    · simpa [hp, State.storeBattery] using hd
    · simp [hp] at hk

theorem Effect.sameConfigGroup {s t : State} {g : OutputGroup} (h : Effect s g t) (hg : g ≠ .config) :
    SameConfigGroup s t := by
  obtain ⟨hv, hk⟩ := h.cfgFlags_kept hg
  have only := h.onlyGroup
  cases g <;> simp at hg <;>
    exact ⟨hv, hk, by rw [only], by rw [only], by rw [only], by rw [only]⟩

theorem Effect.configGroupDecoded {s t : State} {g : OutputGroup} (h : Effect s g t) (hs : ConfigGroupDecoded s) :
    ConfigGroupDecoded t := by
  by_cases hg : g = .config
  · subst hg
    cases h with
    | raise _ e => exact .of_invalid (by simp)
    | config r hr => exact configGroupDecoded_storeConfig hr
  · exact hs.congr (h.sameConfigGroup hg)

theorem Effect.sameBatteryGroup {s t : State} {g : OutputGroup} (h : Effect s g t) (hg : g ≠ .battery) :
    SameBatteryGroup s t := by
  obtain ⟨hv, hk⟩ := h.batFlags_kept hg
  have only := h.onlyGroup
  cases g <;> simp at hg <;>
    exact ⟨hv, hk, by rw [only], by rw [only], by rw [only], by rw [only]⟩

theorem Effect.batteryGroupDecoded {s t : State} {g : OutputGroup} (h : Effect s g t) (hs : BatteryGroupDecoded s) :
    BatteryGroupDecoded t := by
  by_cases hg : g = .battery
  · subst hg
    cases h with
    | raise _ e => exact .of_invalid (by simp)
    | battery r hr => exact batteryGroupDecoded_storeBattery hr
  · exact hs.congr (h.sameBatteryGroup hg)

/-- The two result groups hold decoded records while they are valid. -/
def ResultGroupsDecoded (s : State) : Prop := ConfigGroupDecoded s ∧ BatteryGroupDecoded s

theorem ResultGroupsDecoded.congr {s t : State} (hs : ResultGroupsDecoded s) (hc : SameConfigGroup s t)
    (hb : SameBatteryGroup s t) : ResultGroupsDecoded t := ⟨hs.1.congr hc, hs.2.congr hb⟩

theorem State.block_resetBlock (s : State) : s.resetBlock.block = State.reset.block := rfl

theorem resultGroupsDecoded_reset : ResultGroupsDecoded State.reset := ⟨.of_invalid rfl, .of_invalid rfl⟩

theorem ResultGroupsDecoded.of_block {s t : State} (h : s.block = t.block) (hs : ResultGroupsDecoded s) :
    ResultGroupsDecoded t := by
  have kept {α : Type} (f : State → α) : f t.block = f s.block := congrArg f h.symm
  exact hs.congr
    ⟨kept (Status.cfgValid ·.status), kept (Status.tmoKnown ·.status), kept (·.tmoRaw), kept (·.tmoMin),
      kept (·.beepRaw), kept (·.beep)⟩
    ⟨kept (Status.batValid ·.status), kept (Status.batKnown ·.status), kept (·.batRaw), kept (·.batPct),
      kept (·.chgRaw), kept (·.chg)⟩

theorem ResultGroupsDecoded.setBuf {s : State} (hs : ResultGroupsDecoded s) (b : Buf) (m : Mem) :
    ResultGroupsDecoded (s.setBuf b m) := by
  cases b <;> exact hs.congr ⟨rfl, rfl, rfl, rfl, rfl, rfl⟩ ⟨rfl, rfl, rfl, rfl, rfl, rfl⟩

theorem ResultGroupsDecoded.storeReg {s : State} (hs : ResultGroupsDecoded s) (r : Reg) (v : Word) :
    ResultGroupsDecoded (s.storeReg r v) := by
  cases r <;> exact hs.congr ⟨rfl, rfl, rfl, rfl, rfl, rfl⟩ ⟨rfl, rfl, rfl, rfl, rfl, rfl⟩

/-! #### The raster at reset -/

theorem rasterConsistent_reset : RasterConsistent State.reset where
  pack := Nat.le_refl 0
  cap := Nat.zero_le _
  valid := fun i => by simp [State.byte, State.buf, State.reset]

end Sys2Proof.Machine
end

/-! ### The statements -/

section
namespace Sys2Proof.Machine
open Sys2Proof.Machine.Claim

/-- Settles O9: a command ends with the same block from two states with the same block, since its outputs depend on its
operands alone and it keeps the rest; the other transactions do not look at the host's side. -/
theorem blockCannotReadTheHostsSide : Obligations.BlockCannotReadTheHostsSide := by
  intro s s' x rest rest' hb hd hs hs'
  rw [step_of_pending hs, step_of_pending hs',
    State.eq_atHost (s := s.withPending rest) (s' := s'.withPending rest') hb hd]
  exact transact_atHost x _ _ _ _

/-- Settles O47, from the cases of a transaction: a command changes its output registers and STATUS alone. -/
theorem registersChangeOnlyByTheirWriters : Obligations.RegistersChangeOnlyByTheirWriters := by
  intro s t r h hr
  obtain ⟨x, rest, hp, ht⟩ := pending_of_step_ne h (fun he => hr (by rw [he]))
  refine ⟨rest, ?_⟩
  rcases transact_changes_reg ht (by simpa using hr) with ⟨hw, v, rfl⟩ | ⟨i, hi, rfl⟩ | ⟨hs, w, rfl, hw⟩
  · exact .inl ⟨hw, v, hp⟩
  · exact .inr (.inl ⟨i, hi, hp⟩)
  · exact .inr (.inr ⟨hs, w, hp, hw⟩)

/-- Settles O48, from the cases of a transaction: a command changes its output buffers alone. -/
theorem bufferBytesChangeOnlyByTheirWriters : Obligations.BufferBytesChangeOnlyByTheirWriters := by
  intro s t b k h hb
  obtain ⟨x, rest, hp, ht⟩ := pending_of_step_ne h (fun he => hb (by rw [he]))
  refine ⟨rest, ?_⟩
  rcases transact_changes_byte ht (by simpa [State.byte] using hb) with ⟨hras, v, rfl⟩ | ⟨i, hi, rfl⟩
  · exact .inl ⟨hras, v, hp⟩
  · exact .inr ⟨i, hi, hp⟩

/-- Settles O50: a host's write and every effect of a command keep the canonical form. -/
theorem stepKeepsBuffersCanonical : Obligations.StepKeepsBuffersCanonical := fun _ _ =>
  step_keeps_of_effect
    (block := fun _ _ hb hs b => State.buf_of_block hb b ▸ hs b)
    (bufWrite := fun _ b _ v _ hi hs => hs.setBuf (Mem.wf_write (hs b) hi v))
    (regWrite := fun s r v _ hs b => (s.buf_storeReg r v b).symm ▸ hs b)
    (clr := fun _ _ => buffersCanonical_reset)
    (effect := Effect.buffersCanonical)

/-- Settles O51: the host writes no bit of STATUS, and every effect of a command leaves it legal. -/
theorem stepKeepsStatusLegal : Obligations.StepKeepsStatusLegal := fun _ _ =>
  step_keeps_of_effect (Inv := fun s => StatusLegal s.status)
    (block := fun _ _ hb hs => State.status_of_block hb ▸ hs)
    (bufWrite := fun s b _ _ _ _ hs => (s.status_setBuf b _).symm ▸ hs)
    (regWrite := fun s _ v hr hs => (s.status_storeReg hr v).symm ▸ hs)
    (clr := fun _ _ => statusLegal_reset)
    (effect := Effect.statusLegal)

/-- Settles O52: a group is touched by its DEC command alone, which leaves it invalid or a decoded record. -/
theorem stepKeepsResultGroupsDecoded : Obligations.StepKeepsResultGroupsDecoded := fun _ _ hc hb =>
  step_keeps_of_effect (Inv := ResultGroupsDecoded)
    (block := fun _ _ h hs => hs.of_block h)
    (bufWrite := fun _ b _ _ _ _ hs => hs.setBuf b _)
    (regWrite := fun _ r v _ hs => hs.storeReg r v)
    (clr := fun s _ => resultGroupsDecoded_reset.of_block s.block_resetBlock.symm)
    (effect := fun h hs => ⟨h.configGroupDecoded hs.1, h.batteryGroupDecoded hs.2⟩) ⟨hc, hb⟩

/-- Settles O8: each way a transaction ends answers once, and a command does not touch the host's side. -/
theorem everyTransactionAdvancesTheIndexByOne : Obligations.EveryTransactionAdvancesTheIndexByOne := by
  intro s x rest hs
  obtain ⟨t, r, ht, hp, hn, hl⟩ := transact_host x (s.withPending rest)
  exact ⟨t, r, step_of_pending hs ▸ ht, hp, hn, hl⟩

/-- Settles O43: each effect of a command replaces the fields of STATUS of its own unit, OK and ERR alone. -/
theorem commandsKeepTheFlagsOfOtherUnits : Obligations.CommandsKeepTheFlagsOfOtherUnits :=
  fun _ _ _ _ h => exec_statusKept h

/-- Settles O44: the commands agree on their outputs where they have the same inputs. -/
theorem commandsDependOnlyOnTheirOperands : Obligations.CommandsDependOnlyOnTheirOperands := by
  intro i s s' ⟨hregs, hbytes, hd⟩
  obtain ⟨t, t', ht, ht', same⟩ := exec_agrees ⟨hregs, hbytes⟩
  exact ⟨t, t', ht, ht', same.status, fun r hr => same.regs r hr (.inl hd), same.bufs⟩

/-- Settles O45: a command writes nothing that it reads, so it finds its inputs again. -/
theorem commandsKeepInputsAndRepeat : Obligations.CommandsKeepInputsAndRepeat := by
  refine ⟨fun i s t hi h => ⟨fun r hr => exec_keeps_operand_registers h hr,
    fun bn hbn => exec_keeps_operand_bytes h hbn, fun r hr => ?_⟩, fun i s t hw h => ?_⟩
  · obtain ⟨hs, hm⟩ := config_register_kept hi hr
    exact exec_regValue_kept h hs hm
  · obtain ⟨u, hu, hstatus, hbufs, hregs⟩ := exec_again hw h
    exact ⟨u, hu, hstatus, fun b k => congrArg (Mem.read · k) (hbufs b), hregs⟩

/-- Settles O4: every command answers a next state, and the write of its word is that command with an answer. -/
theorem stepOnCommandWriteRunsTheDecodedCommand : Obligations.StepOnCommandWriteRunsTheDecodedCommand := by
  intro s w rest i hs hd
  obtain ⟨t, ht, -⟩ := exec_cases i { s with pending := rest, cmd := w }
  refine ⟨t, ht, ?_⟩
  rw [step_of_pending hs, transact_commandWrite hd]
  exact congrArg respondAfter ht

/-- Settles O10, register by register. -/
theorem resetStateIsTheSpecs : Obligations.ResetStateIsTheSpecs :=
  ⟨by decide, rfl, rfl, by decide, fun b _ => by cases b <;> rfl⟩

/-- Settles O14, from the table of `State.regSpecified`. -/
theorem resultRegistersAreSpecifiedByTheirFlags : Obligations.ResultRegistersAreSpecifiedByTheirFlags := by
  intro s
  exact ⟨by simp [State.regSpecified], Bool.and_eq_true_iff, by simp [State.regSpecified], Bool.and_eq_true_iff,
    by simp [State.regSpecified]⟩

/-- Settles O21: the two directions of the table of register numbers. -/
theorem registerNumbersAreTheTables : Obligations.RegisterNumbersAreTheTables :=
  ⟨regOfNumber_regNumber, regOfNumber_isSome_iff⟩

/-- Settles O49: nothing is listed, no flag is set, no length is above 0. -/
theorem invariantsHoldAtReset : Obligations.InvariantsHoldAtReset :=
  ⟨buffersCanonical_reset, statusLegal_reset, resultGroupsDecoded_reset.1, resultGroupsDecoded_reset.2,
    rasterConsistent_reset⟩

end Sys2Proof.Machine
end

/-! PROOFS of the statements about the host transactions (20_memory.md): which transactions are refused, what each
accepted one does to the registers, the buffers and the host's responses, and the theorems that settle the
statements. -/

/-! ### Which transactions are refused -/

section
namespace Sys2Proof.Machine

theorem regNumberExists_eq (n : Nat) : regNumberExists n = (regOfNumber n).isSome := by
  rw [Bool.eq_iff_iff, regOfNumber_isSome_iff]
  simp [regNumberExists]

theorem regNumberWritable_eq (n : Nat) : regNumberWritable n = (regOfNumber n).any regWritable := by
  cases h : regOfNumber n with
  | none =>
    have hn : ¬ (n ≤ 0x0B ∨ 0x10 ≤ n ∧ n ≤ 0x1E) := by rw [← regOfNumber_isSome_iff, h]; simp
    simp only [regNumberWritable, Option.any_none, List.contains_eq_mem, decide_eq_false_iff_not, List.mem_cons,
      List.not_mem_nil, or_false]
    omega
  | some r =>
    obtain rfl := regNumber_of_regOfNumber h
    cases r <;> rfl

theorem capacityOfId_eq (b : Nat) : capacityOfId b = (bufOfId b).map bufCapacity := by
  match b with
  | 0 | 1 | 2 | 3 | 4 => rfl
  | _ + 5 => rfl

theorem bufOfId_bufId (b : Buf) : bufOfId (bufId b) = some b := by cases b <;> rfl

/-- RAS is the buffer that the host cannot write (20_memory.md R65). -/
theorem bufWritable_iff {b : Buf} : bufWritable b = true ↔ b ≠ .ras := by cases b <;> simp [bufWritable]

theorem bufWritable_of_bufOfId {n : Nat} {b : Buf} (h : bufOfId n = some b) : bufWritable b = (n != 1) := by
  obtain rfl := bufId_of_bufOfId h
  cases b <;> rfl

theorem wf_regRead_iff {n : Nat} : (HostTxn.regRead n).wf = true ↔ ∃ r, regOfNumber n = some r := by
  rw [HostTxn.wf, regNumberExists_eq, Option.isSome_iff_exists]

theorem wf_regWrite_iff {n : Nat} {v : Word} :
    (HostTxn.regWrite n v).wf = true ↔ ∃ r, regOfNumber n = some r ∧ regWritable r = true := by
  rw [HostTxn.wf, regNumberWritable_eq, Option.any_eq_true]

theorem wf_bufRead_iff {b i : Nat} :
    (HostTxn.bufRead b i).wf = true ↔ ∃ c, bufOfId b = some c ∧ i < bufCapacity c := by
  rw [HostTxn.wf, capacityOfId_eq]
  cases bufOfId b <;> simp

theorem wf_bufWrite_iff {b i : Nat} {v : Byte} :
    (HostTxn.bufWrite b i v).wf = true ↔ ∃ c, bufOfId b = some c ∧ bufWritable c = true ∧ i < bufCapacity c := by
  rw [HostTxn.wf, capacityOfId_eq]
  cases h : bufOfId b with
  | none => simp
  | some c => simp [bufWritable_of_bufOfId h]

/-- A refused transaction is answered accerr and does nothing else (20_memory.md R66). -/
theorem transact_refused {x : HostTxn} (h : x.wf = false) (s : State) : transact x s = .next (s.respond .accerr) := by
  have accepted : ¬ x.wf = true := by simp [h]
  obtain ⟨t, ht, hc⟩ := transact_cases x s
  rcases hc with rfl | ⟨n, r, rfl, hn, -⟩ | ⟨b, i, c, rfl, hb, hi, -⟩ | ⟨b, i, v, c, rfl, hb, hw, hi, -⟩ |
    ⟨n, v, r, rfl, hn, hw, -, -⟩ | ⟨n, v, i, u, rfl, hn, -, -, -⟩ | ⟨n, v, e, rfl, hn, -, -⟩
  · exact ht
  · exact absurd (wf_regRead_iff.mpr ⟨r, hn⟩) accepted
  · exact absurd (wf_bufRead_iff.mpr ⟨c, hb, hi⟩) accepted
  · exact absurd (wf_bufWrite_iff.mpr ⟨c, hb, hw, hi⟩) accepted
  · exact absurd (wf_regWrite_iff.mpr ⟨r, hn, hw⟩) accepted
  · exact absurd (wf_regWrite_iff.mpr ⟨.cmd, hn, rfl⟩) accepted
  · exact absurd (wf_regWrite_iff.mpr ⟨.cmd, hn, rfl⟩) accepted

/-! ### What an accepted transaction does -/

@[simp] theorem State.pending_setBuf (s : State) (b : Buf) (m : Mem) : (s.setBuf b m).pending = s.pending := by
  cases b <;> rfl

@[simp] theorem State.responses_setBuf (s : State) (b : Buf) (m : Mem) : (s.setBuf b m).responses = s.responses := by
  cases b <;> rfl

@[simp] theorem State.pending_storeReg (s : State) (r : Reg) (v : Word) : (s.storeReg r v).pending = s.pending := by
  cases r <;> rfl

@[simp] theorem State.responses_storeReg (s : State) (r : Reg) (v : Word) :
    (s.storeReg r v).responses = s.responses := by cases r <;> rfl

theorem transact_regRead {n : Nat} {r : Reg} (h : regOfNumber n = some r) (s : State) :
    transact (.regRead n) s = .next (s.respond (.okWord (s.hostReg r))) := by
  simp only [transact, hostRegRead, h]

theorem transact_bufRead {b i : Nat} {c : Buf} (h : bufOfId b = some c) (hi : i < bufCapacity c) (s : State) :
    transact (.bufRead b i) s = .next (s.respond (.okByte (s.hostByte c i))) := by
  simp only [transact, hostBufRead, h, if_pos hi]

theorem transact_bufWrite {b i : Nat} {c : Buf} (h : bufOfId b = some c) (hw : bufWritable c = true)
    (hi : i < bufCapacity c) (v : Byte) (s : State) :
    transact (.bufWrite b i v) s = .next ((s.setBuf c ((s.buf c).write i v)).nextDraw.respond .ok) := by
  simp only [transact, hostBufWrite, h, if_pos (And.intro hw hi)]

theorem transact_regWrite {n : Nat} {r : Reg} (h : regOfNumber n = some r) (hw : regWritable r = true)
    (hc : r ≠ .cmd) (v : Word) (s : State) :
    transact (.regWrite n v) s = .next ((s.storeReg r v).nextDraw.respond .ok) := by
  simp only [transact, hostRegWrite, h, if_pos hw, if_neg hc]

theorem performWord_of_decode {w : Word} {i : Instr} (h : decode w = .ok i) (s : State) :
    performWord w s = exec i s := by
  simp only [performWord, h]

/-- A word written to CMD ends with a next state and does not touch the host's side (20_memory.md R63). -/
theorem performWord_host (w : Word) (s : State) : ∃ u, performWord w s = .next u ∧ SameHostSide s u := by
  cases h : decode w with
  | error e => exact ⟨s.raise .nothing .illegalCommand, by simp only [performWord, h], s.raise_host _ _⟩
  | ok i =>
    obtain ⟨u, hu, -⟩ := exec_cases i s
    exact ⟨u, (performWord_of_decode h s).trans hu, exec_host hu⟩

/-- A write of CMD is answered `ok` whatever the outcome of the command (20_memory.md R63). -/
theorem transact_cmd (v : Word) (s : State) :
    ∃ u, performWord v (s.storeReg .cmd v) = .next u ∧ SameHostSide s u ∧
      transact (.regWrite 0x00 v) s = .next (u.respond .ok) := by
  obtain ⟨u, hu, hs⟩ := performWord_host v (s.storeReg .cmd v)
  refine ⟨u, hu, hs, ?_⟩
  change respondAfter (performWord v (s.storeReg .cmd v)) = _
  rw [hu, respondAfter]

/-- A transaction that is not refused is answered with something else than accerr (20_memory.md R66). -/
theorem transact_accepted {x : HostTxn} (h : x.wf = true) (s : State) :
    ∃ t r, transact x s = .next t ∧ t.responses = r :: s.responses ∧ r ≠ .accerr := by
  cases x with
  | regRead n =>
    obtain ⟨r, hn⟩ := wf_regRead_iff.mp h
    exact ⟨_, _, transact_regRead hn s, rfl, nofun⟩
  | bufRead b i =>
    obtain ⟨c, hb, hi⟩ := wf_bufRead_iff.mp h
    exact ⟨_, _, transact_bufRead hb hi s, rfl, nofun⟩
  | bufWrite b i v =>
    obtain ⟨c, hb, hw, hi⟩ := wf_bufWrite_iff.mp h
    exact ⟨_, .ok, transact_bufWrite hb hw hi v s, by simp, nofun⟩
  | regWrite n v =>
    obtain ⟨r, hn, hw⟩ := wf_regWrite_iff.mp h
    by_cases hc : r = .cmd
    · obtain rfl := regNumber_of_regOfNumber hn
      subst hc
      obtain ⟨u, -, ⟨-, -, hresp⟩, ht⟩ := transact_cmd v s
      exact ⟨_, .ok, ht, by simp [hresp], nofun⟩
    · exact ⟨_, .ok, transact_regWrite hn hw hc v s, by simp, nofun⟩

end Sys2Proof.Machine
end

/-! ### What a host read finds after a host write -/

section
namespace Sys2Proof.Machine
open Sys2Proof.Machine.Claim

theorem toNat_setWidth_lt {w : Nat} (x : BitVec w) (n : Nat) : (x.setWidth n).toNat < 2 ^ w := by
  rw [BitVec.toNat_setWidth]
  exact (Nat.mod_le _ _).trans_lt x.isLt

/-- A register holds no more than its width (10_state.md R21). -/
theorem State.regValue_lt (s : State) (r : Reg) : (s.regValue r).toNat < 2 ^ regWidth r := by
  cases r with
  | cmd | status | imgW | imgH | padLen | packLen | rasLen | rawLen | expLen | payLen | dpi => exact BitVec.isLt _
  | beep | chg | padByte | pfxLen | hwMaj | hwMin | hwPat | fwMaj | fwMin | fwPat | tmoRaw | tmoMin | beepRaw
  | batRaw | batPct | chgRaw => exact toNat_setWidth_lt _ 16

/-- A free value of a register fits its width too (93_implementation_defined.md U2). -/
theorem State.drawReg_lt (s : State) (r : Reg) : (s.drawReg r).toNat < 2 ^ regWidth r := toNat_setWidth_lt _ 16

theorem regWidth_le (r : Reg) : regWidth r ≤ 16 := by cases r <;> decide

/-- An RW register takes the low bits of the value (20_memory.md R63). -/
theorem State.toNat_regValue_storeReg (s : State) {r : Reg} (h : regWritable r = true) (v : Word) :
    ((s.storeReg r v).regValue r).toNat = v.toNat % 2 ^ regWidth r := by
  rw [s.regValue_storeReg_self h, BitVec.toNat_setWidth_of_le (regWidth_le r), BitVec.toNat_setWidth]

/-- An RW register is none of the result registers (10_state.md R35). -/
theorem State.regSpecified_of_writable (s : State) {r : Reg} (h : regWritable r = true) : s.regSpecified r = true := by
  cases r <;> simp [regWritable] at h <;> rfl

theorem inValidRegion_iff {s : State} {b : Buf} {i : Nat} : InValidRegion s b i ↔ i < s.validLength b := by
  cases b <;> exact Iff.rfl

@[simp] theorem State.validLength_setBuf (s : State) (b : Buf) (m : Mem) (c : Buf) :
    (s.setBuf b m).validLength c = s.validLength c := by cases b <;> cases c <;> rfl

@[simp] theorem State.validLength_nextDraw (s : State) (b : Buf) : s.nextDraw.validLength b = s.validLength b := by
  cases b <;> rfl

@[simp] theorem State.validLength_respond (s : State) (x : Response) (b : Buf) :
    (s.respond x).validLength b = s.validLength b := by cases b <;> rfl

@[simp] theorem State.validLength_withPending (s : State) (l : List HostTxn) (b : Buf) :
    (s.withPending l).validLength b = s.validLength b := by cases b <;> rfl

/-- A length register is the end of its buffer's valid region (10_state.md R30). -/
theorem State.validLength_storeReg (s : State) {c : Buf} {r : Reg}
    (h : (c, r) ∈ [(Buf.raw, Reg.rawLen), (.pfx, .pfxLen), (.pay, .payLen)]) (n : Word) :
    (s.storeReg r n).validLength c = n.toNat % 2 ^ regWidth r := by
  simp only [List.mem_cons, Prod.mk.injEq, List.not_mem_nil, or_false] at h
  rcases h with ⟨rfl, rfl⟩ | ⟨rfl, rfl⟩ | ⟨rfl, rfl⟩
  · exact (Nat.mod_eq_of_lt n.isLt).symm
  · exact BitVec.toNat_setWidth 8 n
  · exact (Nat.mod_eq_of_lt n.isLt).symm

/-- The host can write the length registers and their buffers (10_state.md R21, R30). -/
theorem lengthRegister_writable {c : Buf} {r : Reg}
    (h : (c, r) ∈ [(Buf.raw, Reg.rawLen), (.pfx, .pfxLen), (.pay, .payLen)]) :
    bufWritable c = true ∧ regWritable r = true ∧ r ≠ .cmd := by
  simp only [List.mem_cons, Prod.mk.injEq, List.not_mem_nil, or_false] at h
  rcases h with ⟨rfl, rfl⟩ | ⟨rfl, rfl⟩ | ⟨rfl, rfl⟩ <;> decide

/-- A byte just written is found at its index (20_memory.md R65). -/
@[simp] theorem State.byte_setBuf_write_self (s : State) (b : Buf) (m : Mem) (i : Nat) (v : Byte) :
    (s.setBuf b (m.write i v)).byte b i = some v := by simp [State.byte]

/-- Every other byte of every buffer is as before (20_memory.md R65). -/
theorem State.byte_setBuf_write_ne (s : State) {b c : Buf} {i j : Nat} (v : Byte) (h : ¬ (c = b ∧ j = i)) :
    (s.setBuf b ((s.buf b).write i v)).byte c j = s.byte c j := by
  by_cases hc : c = b
  · subst hc
    simp [State.byte, Mem.read_write_ne _ v fun hj => h ⟨rfl, hj⟩]
  · simp [State.byte, State.buf_setBuf_ne _ _ hc]

@[simp] theorem State.byte_storeReg (s : State) (r : Reg) (v : Word) (b : Buf) (i : Nat) :
    (s.storeReg r v).byte b i = s.byte b i := by simp [State.byte]

@[simp] theorem State.byte_nextDraw (s : State) (b : Buf) (i : Nat) : s.nextDraw.byte b i = s.byte b i := by
  simp [State.byte]

@[simp] theorem State.byte_respond (s : State) (x : Response) (b : Buf) (i : Nat) :
    (s.respond x).byte b i = s.byte b i := by simp [State.byte]

@[simp] theorem State.byte_withPending (s : State) (l : List HostTxn) (b : Buf) (i : Nat) :
    (s.withPending l).byte b i = s.byte b i := by simp [State.byte]

/-- A BufWrite of an existing place of a writable buffer, in the terms of the read after it. -/
theorem transact_bufWrite_sets {c : Buf} {i : Nat} (hw : bufWritable c = true) (hi : i < bufCapacity c) (v : Byte)
    (s : State) :
    ∃ t, transact (.bufWrite (bufId c) i v) s = .next t ∧ t.pending = s.pending ∧
      t.responses = .ok :: s.responses ∧ t.byte c i = some v ∧ t.validLength c = s.validLength c :=
  ⟨_, transact_bufWrite (bufOfId_bufId c) hw hi v s, by simp, by simp, by simp, by simp⟩

end Sys2Proof.Machine
end

/-! ### Runs of several transactions -/

section
namespace Sys2Proof.Machine
open Sys2Proof.Machine.Claim

theorem run_succ_of_step {M : Host.Core} {s t : M.State} (h : M.step s = .next t) (k : Nat) :
    M.run (k + 1) s = M.run k t := by
  rw [Host.Core.run, h]

/-- A run continues from where a shorter one ended. -/
theorem run_add {M : Host.Core} {j : Nat} {s t : M.State} (h : M.run j s = .next t) (k : Nat) :
    M.run (j + k) s = M.run k t := by
  induction j generalizing s with
  | zero =>
    cases h
    rw [Nat.zero_add]
  | succ j ih =>
    rw [Host.Core.run] at h
    split at h
    · next u hu => rw [Nat.add_right_comm, run_succ_of_step hu, ih h]
    · cases h
    · cases h

theorem RunsTo.refl (s : State) : RunsTo 0 s s := rfl

theorem RunsTo.step {k : Nat} {s t u : State} (h : step s = .next t) (hr : RunsTo k t u) : RunsTo (k + 1) s u :=
  (run_succ_of_step (M := Sys2Proof.core) h k).trans hr

/-- A run begins with the host's next transaction. -/
theorem RunsTo.issue {k : Nat} {s t u : State} {x : HostTxn} {rest : List HostTxn} (hs : s.pending = x :: rest)
    (ht : transact x (s.withPending rest) = .next t) (hr : RunsTo k t u) : RunsTo (k + 1) s u :=
  RunsTo.step ((step_of_pending hs).trans ht) hr

theorem RunsTo.trans {j k : Nat} {s t u : State} (h : RunsTo j s t) (hr : RunsTo k t u) : RunsTo (j + k) s u :=
  (run_add (M := Sys2Proof.core) h k).trans hr

/-- A read changes nothing but what the host sees, and what it answers does not depend on the host's side
(20_memory.md R71). -/
theorem step_read {x : HostTxn} (hx : IsRead x) (s : State) :
    ∃ r, ∀ l n rs, step (s.atHost (x :: l) n rs) = .next (s.atHost l (n + 1) (r :: rs)) := by
  by_cases hwf : x.wf = true
  · cases x with
    | regRead m =>
      obtain ⟨q, hq⟩ := wf_regRead_iff.mp hwf
      exact ⟨.okWord (s.hostReg q), fun l n rs => by
        rw [step_of_pending rfl, transact_regRead hq]; cases q <;> rfl⟩
    | bufRead b i =>
      obtain ⟨c, hb, hi⟩ := wf_bufRead_iff.mp hwf
      exact ⟨.okByte (s.hostByte c i), fun l n rs => by
        rw [step_of_pending rfl, transact_bufRead hb hi]; cases c <;> rfl⟩
    | regWrite m v => exact hx.elim
    | bufWrite b i v => exact hx.elim
  · exact ⟨.accerr, fun l n rs => by
      rw [step_of_pending rfl, transact_refused (Bool.eq_false_iff.mpr hwf)]; rfl⟩

/-- Any number of reads change nothing but what the host sees (20_memory.md R71). -/
theorem runsTo_reads {xs : List HostTxn} (hxs : ∀ x ∈ xs, IsRead x) (s : State) :
    ∃ as : List Response, as.length = xs.length ∧ ∀ l n rs,
      RunsTo xs.length (s.atHost (xs ++ l) n rs) (s.atHost l (n + xs.length) (as ++ rs)) := by
  induction xs with
  | nil => exact ⟨[], rfl, fun l n rs => RunsTo.refl _⟩
  | cons x xs ih =>
    obtain ⟨hx, hxs⟩ := List.forall_mem_cons.mp hxs
    obtain ⟨r, hr⟩ := step_read hx s
    obtain ⟨as, has, hrun⟩ := ih hxs
    refine ⟨as ++ [r], by simp [has], fun l n rs => RunsTo.step (hr _ n rs) ?_⟩
    simpa [Nat.add_assoc, Nat.add_comm 1] using hrun l (n + 1) (r :: rs)

end Sys2Proof.Machine
end

/-! ### The statements -/

section
namespace Sys2Proof.Machine
open Sys2Proof.Machine.Claim

/-- A step whose transaction only answers leaves the block as it was. -/
theorem step_onlyAnswers {s : State} {x : HostTxn} {rest : List HostTxn} {r : Response} (hs : Issues s x rest)
    (h : transact x (s.withPending rest) = .next ((s.withPending rest).respond r)) :
    ∃ t, step s = .next t ∧ OnlyAnswers s rest r t :=
  ⟨_, (step_of_pending hs).trans h, rfl⟩

theorem step_refused {s : State} {x : HostTxn} {rest : List HostTxn} (hs : Issues s x rest) (h : ¬ x.wf = true) :
    ∃ t, step s = .next t ∧ OnlyAnswers s rest .accerr t :=
  step_onlyAnswers hs (transact_refused (Bool.eq_false_iff.mpr h) _)

/-- Settles O54: no read moves the block or the counter of free values, of which alone its answer is made. -/
theorem readsAreIdempotent : Obligations.ReadsAreIdempotent := by
  intro s x between rest hx hbetween hs
  obtain ⟨r, hr⟩ := step_read hx s
  obtain ⟨as, has, hrun⟩ := runsTo_reads hbetween s
  have first : step s = .next (s.atHost (between ++ x :: rest) (s.position + 1) (r :: s.responses)) := by
    have hself : s = s.atHost (x :: (between ++ x :: rest)) s.position s.responses := by
      rw [← List.cons_append, ← hs]; rfl
    exact (congrArg step hself).trans (hr _ _ _)
  have last := RunsTo.step (hr rest (s.position + 1 + between.length) (as ++ r :: s.responses)) (RunsTo.refl _)
  exact ⟨_, r, as, RunsTo.step first ((hrun _ _ _).trans last), rfl, rfl, has, rfl⟩

/-- Settles O13: an existing number is answered with what the host finds in the register, every other is refused. -/
theorem regReadReturnsTheRegister : Obligations.RegReadReturnsTheRegister := by
  intro s n rest hs
  refine ⟨fun hn => step_refused hs (Bool.eq_false_iff.mp hn), fun r hr hspec => ?_, fun r hr hspec => ?_,
    s.regValue_lt⟩
  · refine step_onlyAnswers hs ?_
    rw [transact_regRead hr, State.hostReg_withPending, State.hostReg_specified hspec]
  · obtain ⟨t, ht, ha⟩ := step_onlyAnswers hs (transact_regRead hr _)
    rw [State.hostReg_withPending, State.hostReg_unspecified hspec] at ha
    exact ⟨t, s.drawReg r, ht, ha, s.drawReg_lt r⟩

/-- Settles O15: a store of an RW register keeps the rest, a write of CMD is its command with the answer `ok`. -/
theorem regWriteStoresTheLowBits : Obligations.RegWriteStoresTheLowBits := by
  intro s n v rest hs
  refine ⟨fun hn => step_refused hs (Bool.eq_false_iff.mp hn), fun r hr hw hc => ?_, ?_⟩
  · refine ⟨_, (step_of_pending hs).trans (transact_regWrite hr hw hc v _), ?_, fun q hq => ?_, fun b i => ?_, ?_⟩
    · simpa using State.toNat_regValue_storeReg (s.withPending rest) hw v
    · simp [State.regValue_storeReg_ne _ v hq]
    · simp
    · simp
  · rintro rfl
    obtain ⟨u, hu, ⟨-, -, hresp⟩, ht⟩ := transact_cmd v (s.withPending rest)
    exact ⟨_, (step_of_pending hs).trans ht, by simp [hresp],
      fun i hi => ⟨u, (performWord_of_decode hi _).symm.trans hu, rfl⟩⟩

/-- Settles O16: a byte with a value in the valid region is answered, outside the capacities the read is refused. -/
theorem bufReadReturnsTheByte : Obligations.BufReadReturnsTheByte := by
  intro s b i rest hs
  refine ⟨fun hcap => step_refused hs fun hwf => ?_, fun c hb hi v hv hreg => ?_, fun c hb hi _ => ?_⟩
  · obtain ⟨c, hb, hi⟩ := wf_bufRead_iff.mp hwf
    exact absurd hi (hcap _ (by rw [capacityOfId_eq, hb, Option.map_some])).not_gt
  · refine step_onlyAnswers hs ?_
    rw [transact_bufRead hb hi, State.hostByte_withPending, State.hostByte_specified hv (inValidRegion_iff.mp hreg)]
  · obtain ⟨t, ht, ha⟩ := step_onlyAnswers hs (transact_bufRead hb hi _)
    exact ⟨t, _, ht, ha⟩

/-- Settles O17: one byte of one buffer is written; a write of RAS or past the capacity is refused. -/
theorem bufWriteSetsOneByte : Obligations.BufWriteSetsOneByte := by
  intro s b i v rest hs
  refine ⟨fun hcap => step_refused hs fun hwf => ?_, fun c hb hc hi => ?_⟩
  · obtain ⟨c, hb, hw, hi⟩ := wf_bufWrite_iff.mp hwf
    rcases hcap with rfl | hcap
    · exact bufWritable_iff.mp hw (Option.some.inj hb).symm
    · exact absurd hi (hcap _ (by rw [capacityOfId_eq, hb, Option.map_some])).not_gt
  · refine ⟨_, (step_of_pending hs).trans (transact_bufWrite hb (bufWritable_iff.mpr hc) hi v _), ?_, ?_,
      fun c' j hne => ?_, fun r => ?_⟩
    · simp
    · simp
    · simpa using State.byte_setBuf_write_ne (s.withPending rest) v hne
    · simp

/-- Settles O18, from the two directions of the list of refused transactions. -/
theorem refusedTransactionsChangeNothing : Obligations.RefusedTransactionsChangeNothing := by
  intro s x rest hs
  refine ⟨fun h => step_refused hs (Bool.eq_false_iff.mp h), fun h => ?_⟩
  rw [step_of_pending hs]
  exact transact_accepted h (s.withPending rest)

/-- Settles O19: the byte written stands at its index, and a write of a length register leaves it there. -/
theorem hostReadsBackTheByteItWrote : Obligations.HostReadsBackTheByteItWrote := by
  refine ⟨fun s c i v rest hc hi hs => ?_, fun s c r i v n rest hm hi hn hs => ?_⟩
  · obtain ⟨t, ht, hp, hresp, hbyte, hlen⟩ := transact_bufWrite_sets (bufWritable_iff.mpr hc) hi v (s.withPending _)
    have read := transact_bufRead (bufOfId_bufId c) hi (t.withPending rest)
    refine ⟨_, t.hostByte c i, RunsTo.issue hs ht (RunsTo.issue hp read (RunsTo.refl _)), ?_, fun hreg => ?_⟩
    · simp [hresp, State.hostByte_withPending]
    · exact State.hostByte_specified hbyte (by simpa [hlen] using inValidRegion_iff.mp hreg)
  · obtain ⟨hc, hr, hcmd⟩ := lengthRegister_writable hm
    obtain ⟨t, ht, hp, hresp, hbyte, -⟩ := transact_bufWrite_sets hc hi v (s.withPending _)
    have lengthen := transact_regWrite (regOfNumber_regNumber r) hr hcmd n (t.withPending (.bufRead (bufId c) i :: rest))
    have read := transact_bufRead (bufOfId_bufId c) hi
    refine ⟨_, RunsTo.issue hs ht (RunsTo.issue hp lengthen (RunsTo.issue (rest := rest) (by simp) (read _)
      (RunsTo.refl _))), ?_⟩
    rw [State.respond_responses, State.hostByte_specified (v := v)]
    · simp [hresp]
    · simp [hbyte]
    · simpa [State.validLength_storeReg _ hm] using hn

/-- Settles O20: an RW register always has a specified value, the one just stored. -/
theorem hostReadsBackTheRegisterItWrote : Obligations.HostReadsBackTheRegisterItWrote := by
  intro s r v rest hw hc hs
  have write := transact_regWrite (regOfNumber_regNumber r) hw hc v (s.withPending (.regRead (regNumber r) :: rest))
  have read := transact_regRead (regOfNumber_regNumber r)
  refine ⟨_, RunsTo.issue hs write (RunsTo.issue (rest := rest) (by simp) (read _) (RunsTo.refl _)), ?_⟩
  rw [State.respond_responses, State.hostReg_specified (State.regSpecified_of_writable _ hw),
    ← State.toNat_regValue_storeReg (s.withPending (.regRead (regNumber r) :: rest)) hw]
  simp

/-- Settles O6: a step performs a transaction only where one is to come. -/
theorem idleBlockKeepsItsState : Obligations.IdleBlockKeepsItsState := fun _ => step_of_idle

end Sys2Proof.Machine
end

/-! PROOFS of the statements about the encoding (30_encoding.md): which words are words of the opcode table, what the
pseudo-instruction loadraw leaves, and the theorems that settle the statements. -/

/-! ### The rows of the opcode table -/

section
namespace Sys2Proof.Machine

theorem decodeFields_fieldsOfInstr (i : Instr) : decodeFields (fieldsOfInstr i) = .ok i := by cases i <;> rfl

/-- A word decodes to some command exactly when its fields are a row of the table (30_encoding.md R81, R83). -/
theorem exists_decode_iff {w : Word} : (∃ i, decode w = .ok i) ↔ ∃ i, fieldsOfWord w = fieldsOfInstr i :=
  exists_congr fun i => ⟨fieldsOfInstr_of_decodeFields, fun h => by rw [decode, h, decodeFields_fieldsOfInstr]⟩

/-- The rows of the table by unit: NOP and CLR, the three framers, and two commands of each of the other two units
(30_encoding.md R83). -/
theorem exists_fieldsOfInstr_iff {f : CommandFields} : (∃ i, f = fieldsOfInstr i) ↔
    f.arg = 0#8 ∧
    ((f.unit = 0#4 ∧ f.func.toNat < 2) ∨ (f.unit = 1#4 ∧ f.func.toNat < 3) ∨
     ((f.unit = 2#4 ∨ f.unit = 3#4) ∧ 1 ≤ f.func.toNat ∧ f.func.toNat < 3)) := by
  constructor
  · rintro ⟨i, rfl⟩
    cases i <;> decide
  · obtain ⟨unit, func, arg⟩ := f
    rintro ⟨rfl, ⟨rfl, h⟩ | ⟨rfl, h⟩ | ⟨hu, h⟩⟩
    · obtain rfl | rfl : func = 0#4 ∨ func = 1#4 := by bv_omega
      exacts [⟨.nop, rfl⟩, ⟨.clr, rfl⟩]
    · obtain rfl | rfl | rfl : func = 0#4 ∨ func = 1#4 ∨ func = 2#4 := by bv_omega
      exacts [⟨.frame, rfl⟩, ⟨.frameCfg, rfl⟩, ⟨.frameBat, rfl⟩]
    · obtain ⟨rfl | rfl, rfl | rfl⟩ : (unit = 2#4 ∨ unit = 3#4) ∧ (func = 1#4 ∨ func = 2#4) := ⟨hu, by bv_omega⟩
      exacts [⟨.decCfg, rfl⟩, ⟨.decBat, rfl⟩, ⟨.enc1, rfl⟩, ⟨.enc2, rfl⟩]

theorem map_decode_encode (is : List Instr) : (is.map encode).map decode = is.map .ok := by
  simp [decode_encode]

/-- A word of no command is rejected (30_encoding.md R83). -/
theorem decode_toOption_eq_none {w : Word} (h : ∀ i, w ≠ encode i) : (decode w).toOption = none := by
  cases hd : decode w with
  | error e => rfl
  | ok i => exact absurd (encode_of_decode hd) (h i)

end Sys2Proof.Machine
end

/-! ### The pseudo-instructions that fill a buffer -/

section
namespace Sys2Proof.Machine

/-- From `s` to `t` the bytes `bytes` were written to the buffer `c` from index `i` on, and nothing else of the block
changed. -/
structure BytesWritten (c : Buf) (i : Nat) (bytes : List Byte) (s t : State) : Prop where
  written : ∀ j (h : j < bytes.length), t.byte c (i + j) = some bytes[j]
  kept : ∀ b k, (b = c → k < i ∨ i + bytes.length ≤ k) → t.byte b k = s.byte b k
  regs : ∀ r, t.regValue r = s.regValue r

theorem BytesWritten.nil {c : Buf} {i : Nat} {s : State} : BytesWritten c i [] s s where
  written := nofun
  kept _ _ _ := rfl
  regs _ := rfl

/-- The bytes after the first are written past it, so the first one stays. -/
theorem BytesWritten.cons {c : Buf} {i : Nat} {v : Byte} {bytes : List Byte} {s t u : State}
    (first : BytesWritten c i [v] s t) (later : BytesWritten c (i + 1) bytes t u) :
    BytesWritten c i (v :: bytes) s u where
  written
    | 0, _ => (later.kept c (i + 0) fun _ => .inl (Nat.lt_succ_self i)).trans (first.written 0 Nat.zero_lt_one)
    | j + 1, h => by
      rw [← Nat.add_assoc, Nat.add_right_comm]
      exact later.written j (Nat.lt_of_succ_lt_succ h)
  kept b k h := by
    rw [List.length_cons] at h
    rw [later.kept b k fun hb => by have := h hb; omega,
      first.kept b k fun hb => by have := h hb; rw [List.length_singleton]; omega]
  regs r := (later.regs r).trans (first.regs r)

/-- A host write of one byte (20_memory.md R65). -/
theorem transact_bufWrite_written {c : Buf} {i : Nat} (hw : bufWritable c = true) (hi : i < bufCapacity c) (v : Byte)
    (s : State) (rest : List HostTxn) :
    ∃ t, transact (.bufWrite (bufId c) i v) (s.withPending rest) = .next t ∧ t.pending = rest ∧
      BytesWritten c i [v] s t := by
  refine ⟨_, transact_bufWrite (bufOfId_bufId c) hw hi v _, by simp, fun j hj => ?_, fun b k h => ?_, by simp⟩
  · obtain rfl : j = 0 := Nat.lt_one_iff.mp hj
    simp
  · have hne : ¬ (b = c ∧ k = i) := fun ⟨hb, hk⟩ => by simpa [hk] using h hb
    simpa using State.byte_setBuf_write_ne (s.withPending rest) v hne

/-- The host's writes of a list of bytes that fits the buffer (30_encoding.md R92). -/
theorem runsTo_writeBytes {c : Buf} (hw : bufWritable c = true) {bytes : List Byte} {i : Nat}
    (hi : i + bytes.length ≤ bufCapacity c) {s : State} {rest : List HostTxn}
    (hs : s.pending = Script.writeBytes c i bytes ++ rest) :
    ∃ t, RunsTo bytes.length s t ∧ t.pending = rest ∧ BytesWritten c i bytes s t := by
  induction bytes generalizing i s with
  | nil => exact ⟨s, RunsTo.refl s, hs, .nil⟩
  | cons v bytes ih =>
    rw [List.length_cons] at hi
    obtain ⟨t, ht, hp, first⟩ := transact_bufWrite_written hw (i := i) (by omega) v s
      (Script.writeBytes c (i + 1) bytes ++ rest)
    obtain ⟨u, hu, hrest, later⟩ := ih (by omega) hp
    exact ⟨u, RunsTo.issue hs ht hu, hrest, first.cons later⟩

end Sys2Proof.Machine
end

/-! ### The statements -/

section
namespace Sys2Proof.Machine

/-- Settles O1: the decoder reads each row of the table back. -/
theorem decodeOfEncodeIsIdentity : Obligations.DecodeOfEncodeIsIdentity := fun i _ => decode_encode i

/-- Settles O2: the fields that decode are the rows of the table, and a word is made of its fields. -/
theorem decodeAcceptsExactlyTheEncodedWords : Obligations.DecodeAcceptsExactlyTheEncodedWords :=
  ⟨fun _ i => ⟨encode_of_decode, fun h => h ▸ decode_encode i⟩,
    fun _ => exists_decode_iff.trans exists_fieldsOfInstr_iff⟩

/-- Settles O3: the first nine words are the encoder's, the other nine are not. -/
theorem opcodeTableWordsDecode : Obligations.OpcodeTableWordsDecode := by
  refine ⟨map_decode_encode [.nop, .clr, .frame, .frameCfg, .frameBat, .decCfg, .decBat, .enc1, .enc2],
    fun w hw => decode_toOption_eq_none fun i => ?_⟩
  rintro rfl
  exact absurd hw (by cases i <;> decide)

/-- Settles O22: loadraw writes its bytes and then RAW_LEN, which keeps the buffers and every other register. -/
theorem loadrawLoadsTheResponse : Obligations.LoadrawLoadsTheResponse := by
  intro s bytes rest hlen hs
  rw [Script.loadraw, List.append_assoc] at hs
  obtain ⟨t, hrun, hp, hwritten, hkept, hregs⟩ := runsTo_writeBytes (c := .raw) rfl (by rwa [Nat.zero_add]) hs
  have lengthen := transact_regWrite (regOfNumber_regNumber .rawLen) rfl nofun (BitVec.ofNat 16 bytes.length)
    (t.withPending rest)
  have hfits : bytes.length < 2 ^ 16 := hlen.trans_lt (by decide)
  refine ⟨_, hrun.trans (RunsTo.issue hp lengthen (RunsTo.refl _)), by simp,
    (BitVec.toNat_ofNat _ _).trans (Nat.mod_eq_of_lt hfits), fun i hi => ?_, fun i hi => ?_, fun c i hc => ?_,
    fun r hr => ?_⟩
  · simpa using hwritten i hi
  · simpa using hkept .raw i fun _ => .inr (by rwa [Nat.zero_add])
  · simpa using hkept c i fun h => absurd h hc
  · simpa [State.regValue_storeReg_ne _ _ hr] using hregs r

end Sys2Proof.Machine
end

/-! PROOFS of the statements about the framer (40_framer.md): where the checks of a framer command stand, what its error
and its success leave, and the theorems that settle the statements. -/

/-! ### The response and its terminator -/

section
namespace Sys2Proof.Machine
open Sys2Proof.Machine.Claim

/-- The first bytes of a region are a region. -/
theorem State.take_region (s : State) (b : Buf) {m n : Nat} (h : m ≤ n) : (s.region b n).take m = s.region b m := by
  rw [State.region, ← List.map_take, List.take_range, Nat.min_eq_left h, State.region]

/-- The last two bytes of a region stand after the others. -/
theorem State.region_add_two (s : State) (b : Buf) (n : Nat) :
    s.region b (n + 2) = s.region b n ++ [s.operandByte b n, s.operandByte b (n + 1)] := by
  simp [State.region, List.range_succ]

theorem State.region_eq_iff {s : State} {b : Buf} {bytes : List Byte} :
    s.region b bytes.length = bytes ↔ ∀ k (h : k < bytes.length), s.operandByte b k = bytes[k] := by
  have byte : ∀ k (h : k < (s.region b bytes.length).length),
      (s.region b bytes.length)[k] = s.operandByte b k := fun k h => by simp [State.region]
  constructor
  · intro h k hk
    rw [← byte k (by simpa using hk), List.getElem_of_eq h]
  · exact fun h => List.ext_getElem (s.length_region b _) fun k hr hk => (byte k hr).trans (h k hk)

/-- The response starts with given bytes exactly where `frame` finds them there (40_framer.md R101). -/
theorem startsWith_iff {s : State} {pfx : List Byte} :
    StartsWith s pfx ↔ (s.region .raw s.rawLen.toNat).take pfx.length = pfx := by
  have hlen : (s.region .raw s.rawLen.toNat).take pfx.length = pfx → pfx.length ≤ s.rawLen.toNat := fun h => by
    simpa using congrArg List.length h
  constructor
  · exact fun ⟨hp, hbytes⟩ => (s.take_region .raw hp).trans (State.region_eq_iff.mpr hbytes)
  · exact fun h => ⟨hlen h, State.region_eq_iff.mp ((s.take_region .raw (hlen h)).symm.trans h)⟩

/-- `frame` on a response that ends with two bytes `x` (40_framer.md R101): they decide the terminator flag and no
check. -/
theorem frameBytes_append {body x pfx : List Byte} (hx : x.length = 2) (hp : pfx.length ≤ body.length) (n : Nat) :
    frameBytes (body ++ x) pfx n =
      if body.take pfx.length ≠ pfx then .error .badPrefix
      else if body.length ≠ pfx.length + n then .error .badLength
      else .ok (body.drop pfx.length, x == Config.terminator) := by
  have htake : (body ++ x).take pfx.length = body.take pfx.length := List.take_append_of_le_length hp
  have hlen : (body ++ x).length = body.length + 2 := by rw [List.length_append, hx]
  by_cases hpfx : body.take pfx.length = pfx
  · rw [if_neg (not_not.mpr hpfx)]
    by_cases hn : body.length = pfx.length + n
    · rw [if_neg (not_not.mpr hn)]
      refine frameBytes_ok_iff.mpr ⟨htake.trans hpfx, by omega, ?_, ?_⟩
      · rw [← hn, List.take_left]
      · rw [← hn, List.drop_left]
    · rw [if_pos hn, frameBytes_badLength (htake.trans hpfx) (by omega)]
  · rw [if_pos hpfx, frameBytes_badPrefix (htake ▸ hpfx)]

/-- A framer command past its capacity check on a response at least two bytes longer than its PFX bytes (40_framer.md
R103, R107): the last two bytes go to TERMOK and nowhere else. -/
theorem State.frameWith_eq {s : State} {m : Nat} (hm : s.rawLen.toNat = m + 2) {pfx : List Byte}
    (hp : pfx.length ≤ m) (len : Word) :
    s.frameWith pfx len =
      if s.region .raw pfx.length ≠ pfx then s.raise .payload .badPrefix
      else if m ≠ pfx.length + len.toNat then s.raise .payload .badLength
      else s.storePayload ((s.region .raw m).drop pfx.length) len
        ([s.operandByte .raw m, s.operandByte .raw (m + 1)] == Config.terminator) := by
  rw [State.frameWith, hm, s.region_add_two, frameBytes_append rfl (by rwa [s.length_region]), s.take_region .raw hp,
    s.length_region]
  split_ifs
  · rfl
  · rfl
  · rfl

end Sys2Proof.Machine
end

/-! ### The checks of a framer command and what it leaves -/

section
namespace Sys2Proof.Machine
open Sys2Proof.Machine.Claim

/-- A framer command checks its length registers first (40_framer.md R102). -/
theorem exec_framer_misconfigured {i : Instr} {s : State} {pfx : List Byte} {n : Nat}
    (h : framerOperands i s = some (pfx, n)) (hm : FramerMisconfigured i s) :
    exec i s = .next (s.raise .payload .badConfig) := by
  cases i <;> cases h
  case frame => exact if_pos (hm.imp_right And.right)
  case frameCfg => exact if_pos (hm.resolve_right nofun)
  case frameBat => exact if_pos (hm.resolve_right nofun)

/-- With its length registers right, a framer command is the check of the response against its operands (40_framer.md
R103 to R105). -/
theorem exec_framer {i : Instr} {s : State} {pfx : List Byte} {n : Nat} (h : framerOperands i s = some (pfx, n))
    (hm : ¬ FramerMisconfigured i s) : ∃ len : Word, len.toNat = n ∧ exec i s = .next (s.frameWith pfx len) := by
  cases i <;> cases h
  case frame => exact ⟨s.expLen, rfl, if_neg fun hc => hm (hc.imp_right (.intro rfl))⟩
  case frameCfg => exact ⟨10#16, rfl, if_neg fun hc => hm (.inl hc)⟩
  case frameBat => exact ⟨2#16, rfl, if_neg fun hc => hm (.inl hc)⟩

/-- The STATUS of a framer command with the outcome `e` (40_framer.md R103, 60_exceptions.md R206). -/
theorem statusAfter_framer (w : Word) (termok : Bool) (e : ErrorCode) :
    StatusAfter (1 :: outcomeBits) (errorNumber e).toNat w (Status.setOutcome (Status.setTermok w termok) e) :=
  ⟨by rw [Status.ok_setOutcome]; cases e <;> rfl, by rw [Status.err_setOutcome],
    ((StatusKept.refl _ w).setTermok (by decide) termok).setOutcome (by decide) e⟩

/-- The STATUS of a framer command for another value of the terminator flag (40_framer.md R107). -/
theorem statusKept_termok (w : Word) (b b' : Bool) (e : ErrorCode) :
    StatusKept [1] (Status.setOutcome (Status.setTermok w b) e) (Status.setOutcome (Status.setTermok w b') e) := by
  intro k hk
  have hk : k ≠ 1 := List.ne_of_not_mem_cons hk
  simp [hk]

/-- The error entry of the framer (60_exceptions.md R206). -/
theorem frameFailed_raise (s : State) (e : ErrorCode) : FrameFailed s (s.raise .payload e) (errorNumber e).toNat :=
  ⟨rfl, fun _ => rfl, statusAfter_framer s.status false e, by simp⟩

/-- A framer command succeeds on a response that starts with its bytes and has the right length (40_framer.md R103). -/
theorem exec_framed {i : Instr} {s : State} {pfx : List Byte} {n : Nat} (h : framerOperands i s = some (pfx, n))
    (hm : ¬ FramerMisconfigured i s) (hs : StartsWith s pfx) (hn : s.rawLen.toNat = pfx.length + n + 2) :
    ∃ t, exec i s = .next t ∧ Framed s t pfx.length n := by
  obtain ⟨len, rfl, hexec⟩ := exec_framer h hm
  have hpfx : s.region .raw pfx.length = pfx := State.region_eq_iff.mpr hs.2
  rw [State.frameWith_eq hn (Nat.le_add_right _ _), if_neg (not_not.mpr hpfx), if_neg (not_not.mpr rfl)] at hexec
  refine ⟨_, hexec, rfl, rfl, fun j => ?_, statusAfter_framer s.status _ .noError, ?_⟩
  · calc (Mem.ofBytes ((s.region .raw (pfx.length + len.toNat)).drop pfx.length)).read j
        = (s.region .raw (pfx.length + len.toNat))[pfx.length + j]? := by rw [Mem.read_ofBytes, List.getElem?_drop]
      _ = if j < len.toNat then some (s.operandByte .raw (pfx.length + j)) else none := by
        simp [State.getElem?_region]
  · simp [Config.terminator]

/-- What is written over the last two bytes of a response goes to TERMOK and nowhere else (40_framer.md R107). -/
theorem frameWith_overwritten {s : State} {m : Nat} (hm : s.rawLen.toNat = m + 2) {pfx : List Byte}
    (hp : pfx.length ≤ m) (len : Word) {mem : Mem} (hkept : ∀ k < m, mem.read k = s.raw.read k) :
    ∃ st, (s.setBuf .raw mem).frameWith pfx len = { s.frameWith pfx len with raw := mem, status := st } ∧
      StatusKept [1] (s.frameWith pfx len).status st := by
  have hregion : ∀ n ≤ m, (s.setBuf .raw mem).region .raw n = s.region .raw n := fun n hn =>
    State.region_congr fun k hk => congrArg (Option.getD · _) (hkept k (by omega))
  rw [State.frameWith_eq (s := s.setBuf .raw mem) hm hp, State.frameWith_eq hm hp, hregion _ hp, hregion m le_rfl]
  split
  · exact ⟨_, rfl, .refl _ _⟩
  · split
    · exact ⟨_, rfl, .refl _ _⟩
    · exact ⟨_, rfl, statusKept_termok s.status _ _ _⟩

end Sys2Proof.Machine
end

/-! ### The statements -/

section
namespace Sys2Proof.Machine
open Sys2Proof.Machine.Claim

/-- Settles O26: the capacity check is made first, and the first bytes of the response before its length. -/
theorem framerReportsTheFirstFailingCheck : Obligations.FramerReportsTheFirstFailingCheck := by
  intro i s pfx n h
  refine ⟨fun hm => ⟨_, exec_framer_misconfigured h hm, frameFailed_raise s .badConfig⟩, fun hm hs => ?_,
    fun hm hs hn => ?_⟩
  · obtain ⟨len, -, hexec⟩ := exec_framer h hm
    rw [State.frameWith, frameBytes_badPrefix (mt startsWith_iff.mpr hs)] at hexec
    exact ⟨_, hexec, frameFailed_raise s .badPrefix⟩
  · obtain ⟨len, rfl, hexec⟩ := exec_framer h hm
    rw [State.frameWith, frameBytes_badLength (startsWith_iff.mp hs) (by rwa [s.length_region])] at hexec
    exact ⟨_, hexec, frameFailed_raise s .badLength⟩

/-- Settles O23: FRAME's operands are PFX and EXP_LEN, and the response has both. -/
theorem frameStripsPrefixAndTerminator : Obligations.FrameStripsPrefixAndTerminator := by
  intro s hraw hpfx hsame hlen
  have hp : (s.region .pfx s.pfxLen.toNat).length = s.pfxLen.toNat := s.length_region _ _
  have hm : ¬ FramerMisconfigured .frame s := by simp [FramerMisconfigured, hraw, hpfx]
  have hbytes : s.region .raw s.pfxLen.toNat = s.region .pfx s.pfxLen.toNat :=
    List.map_congr_left fun k hk => hsame k (List.mem_range.mp hk)
  have hs : StartsWith s (s.region .pfx s.pfxLen.toNat) := ⟨by omega, State.region_eq_iff.mp (by rw [hp, hbytes])⟩
  simpa only [hp] using exec_framed rfl hm hs (by rwa [hp])

/-- Settles O24: FRAME.CFG's operands are its own, of 7 and 10 bytes. -/
theorem frameCfgAcceptsConfigResponses : Obligations.FrameCfgAcceptsConfigResponses := by
  intro s hlen hs
  have hm : ¬ FramerMisconfigured .frameCfg s := by simp [FramerMisconfigured, hlen]
  exact exec_framed rfl hm hs hlen

/-- Settles O25: FRAME.BAT's operands are its own, of 8 and 2 bytes. -/
theorem frameBatAcceptsBatteryResponses : Obligations.FrameBatAcceptsBatteryResponses := by
  intro s hlen hs
  have hm : ¬ FramerMisconfigured .frameBat s := by simp [FramerMisconfigured, hlen]
  exact exec_framed rfl hm hs hlen

/-- Settles O27: the checks read no byte from the last two on, and these go to TERMOK alone. -/
theorem terminatorValueDecidesOnlyTermok : Obligations.TerminatorValueDecidesOnlyTermok := by
  intro i s pfx n a b t h hp hexec
  obtain ⟨m, hm⟩ := Nat.exists_eq_add_of_le' (show 2 ≤ s.rawLen.toNat by omega)
  have hroom : pfx.length ≤ m := by omega
  rw [show s.rawLen.toNat - 2 = m by omega, show s.rawLen.toNat - 1 = m + 1 by omega]
  have hkept : ∀ k < m, ((s.raw.write m a).write (m + 1) b).read k = s.raw.read k := fun k hk => by
    rw [Mem.read_write_ne _ b (by omega), Mem.read_write_ne _ a (by omega)]
  have h' : framerOperands i (s.setBuf .raw ((s.raw.write m a).write (m + 1) b)) = some (pfx, n) := by
    cases i <;> exact h
  by_cases hc : FramerMisconfigured i s
  · cases (exec_framer_misconfigured h hc).symm.trans hexec
    exact ⟨_, exec_framer_misconfigured h' hc, .refl _ _⟩
  · obtain ⟨len, rfl, hs⟩ := exec_framer h hc
    obtain ⟨len', hlen, hs'⟩ := exec_framer h' hc
    obtain rfl := BitVec.eq_of_toNat_eq hlen
    cases hs.symm.trans hexec
    obtain ⟨st, hst, hstatus⟩ := frameWith_overwritten hm hroom len' hkept
    exact ⟨st, hst ▸ hs', hstatus⟩

end Sys2Proof.Machine
end

/-! PROOFS of the statements about the decoder (41_decoder.md): the classification functions, what the DEC commands
answer on a payload of their own length and of another, and the theorems that settle the statements. -/

/-! ### The classification functions -/

section
namespace Sys2Proof.Machine
open Sys2Proof.Machine.Claim

theorem be16_lt (b0 b1 : Byte) : be16 b0 b1 < 65536 := by
  have h0 := b0.isLt
  have h1 := b1.isLt
  rw [be16]
  omega

/-- A 16-bit register has room for `be16` (41_decoder.md R121). -/
theorem toNat_ofNat_be16 (b0 b1 : Byte) : (BitVec.ofNat 16 (be16 b0 b1)).toNat = be16 b0 b1 :=
  (BitVec.toNat_ofNat _ _).trans (Nat.mod_eq_of_lt (be16_lt b0 b1))

/-- The first byte of `be16` stands in the high half of the register. -/
theorem extractLsb'_high_be16 (b0 b1 : Byte) : (BitVec.ofNat 16 (be16 b0 b1)).extractLsb' 8 8 = b0 := by
  have h0 := b0.isLt
  have h1 := b1.isLt
  apply BitVec.eq_of_toNat_eq
  rw [BitVec.extractLsb'_toNat, toNat_ofNat_be16, Nat.shiftRight_eq_div_pow, be16]
  omega

/-- The second byte of `be16` stands in the low half of the register. -/
theorem extractLsb'_low_be16 (b0 b1 : Byte) : (BitVec.ofNat 16 (be16 b0 b1)).extractLsb' 0 8 = b1 := by
  have h1 := b1.isLt
  apply BitVec.eq_of_toNat_eq
  rw [BitVec.extractLsb'_toNat, toNat_ofNat_be16, Nat.shiftRight_zero, be16]
  omega

theorem bool3_eq (b : Byte) :
    bool3 b = if b.toNat = 0 then .isFalse else if b.toNat = 1 then .isTrue else .unknown := by
  simp only [bool3, BitVec.toNat_eq, BitVec.toNat_ofNat, Nat.reducePow, Nat.reduceMod]

/-- The rows of TMO_TABLE in their order (41_decoder.md R123). -/
theorem timeoutMinutes_eq : ∀ b : Byte, timeoutMinutes b =
    if b.toNat = 0 then some 0 else if b.toNat = 1 then some 15 else if b.toNat = 2 then some 30
    else if b.toNat = 3 then some 60 else none := by decide

/-- A Bool3 register that holds the raw byte, or 2 from 2 on, agrees with it (41_decoder.md R122). -/
theorem bool3Agrees_of_toNat_eq {raw : Byte} {reg : BitVec 2} (h : reg.toNat = min raw.toNat 2) :
    Bool3Agrees raw reg := by
  refine ⟨?_, ?_, fun hraw => BitVec.eq_of_toNat_eq (h.trans (Nat.min_eq_right hraw))⟩
  · rintro rfl; exact BitVec.eq_of_toNat_eq h
  · rintro rfl; exact BitVec.eq_of_toNat_eq h

/-- TMO_MIN beside a timeout byte of TMO_TABLE is that row's (41_decoder.md R123). -/
theorem ConfigGroupDecoded.tmoMin_eq {s : State} (h : ConfigGroupDecoded s) (hv : Status.cfgValid s.status = true)
    {raw minutes : Byte} (hrow : (raw.toNat, minutes.toNat) ∈ [(0, 0), (1, 15), (2, 30), (3, 60)])
    (hraw : s.tmoRaw = raw) : s.tmoMin = minutes := by
  subst hraw
  simp only [List.mem_cons, Prod.mk.injEq, List.not_mem_nil, or_false] at hrow
  have stored := h.minutes hv ((h.known hv).mpr (by omega))
  simp only [List.mem_cons, Prod.mk.injEq, List.not_mem_nil, or_false] at stored
  exact BitVec.eq_of_toNat_eq (by omega)

end Sys2Proof.Machine
end

/-! ### What a DEC command answers -/

section
namespace Sys2Proof.Machine
open Sys2Proof.Machine.Claim

/-- DEC.CFG on a payload of its own length stores the decoded record (41_decoder.md R126). -/
theorem exec_decCfg {s : State} (h : s.payLen.toNat = 10) {r : ConfigRecord}
    (hr : decodeConfig (s.region .pay Config.lenConfig) = .ok r) : exec .decCfg s = .next (s.storeConfig r) := by
  rw [exec, execDecCfg, if_neg (not_not.mpr h), hr]

/-- DEC.BAT on a payload of its own length stores the decoded record (41_decoder.md R127). -/
theorem exec_decBat {s : State} (h : s.payLen.toNat = 2) {r : BatteryRecord}
    (hr : decodeBattery (s.region .pay Config.lenBattery) = .ok r) : exec .decBat s = .next (s.storeBattery r) := by
  rw [exec, execDecBat, if_neg (not_not.mpr h), hr]

theorem State.cfgValid_storeConfig (s : State) (r : ConfigRecord) :
    Status.cfgValid (s.storeConfig r).status = true := by simp

theorem State.batValid_storeBattery (s : State) (r : BatteryRecord) :
    Status.batValid (s.storeBattery r).status = true := by simp

theorem exec_decCfg_mismatch {s : State} (h : s.payLen.toNat ≠ 10) :
    exec .decCfg s = .next (s.raise .config .lengthMismatch) := if_pos h

theorem exec_decBat_mismatch {s : State} (h : s.payLen.toNat ≠ 2) :
    exec .decBat s = .next (s.raise .battery .lengthMismatch) := if_pos h

/-- The STATUS of a command with the outcome `e` (10_state.md R36, 60_exceptions.md R201). -/
theorem Effect.statusAfter {s t : State} {g : OutputGroup} (h : Effect s g t) {w : Word} {e : ErrorCode}
    (ht : t.status = Status.setOutcome w e) :
    StatusAfter (statusBitsOfGroup g) (errorNumber e).toNat s.status t.status :=
  ⟨by rw [ht, Status.ok_setOutcome]; cases e <;> rfl, by rw [ht, Status.err_setOutcome], h.statusKept⟩

end Sys2Proof.Machine
end

/-! ### A CONFIG response through the framer and the decoder -/

section
namespace Sys2Proof.Machine
open Sys2Proof.Machine.Claim

theorem State.operandByte_of_byte {s : State} {b : Buf} {i : Nat} {v : Byte} (h : s.byte b i = some v) :
    s.operandByte b i = v := by
  rw [State.operandByte, h, Option.getD_some]

/-- A write of a command word is one step, which the later transactions follow (10_state.md R22, R24). -/
theorem runsTo_commandWrite {s : State} {w : Word} {i : Instr} {rest : List HostTxn}
    (hs : s.pending = .regWrite 0x00 w :: rest) (hd : decode w = .ok i) :
    ∃ t, exec i ((s.withPending rest).storeReg .cmd w) = .next t ∧ RunsTo 1 s (t.respond .ok) ∧
      t.pending = rest := by
  obtain ⟨t, ht, -⟩ := exec_cases i ((s.withPending rest).storeReg .cmd w)
  obtain ⟨hp, -, -⟩ := exec_host ht
  refine ⟨t, ht, RunsTo.issue hs ?_ (RunsTo.refl _), by simpa using hp⟩
  rw [transact_commandWrite hd, ht, respondAfter]

/-- FRAME.CFG on a CONFIG response with the payload `p` leaves `p` in PAY (40_framer.md R104). -/
theorem exec_frameCfg_payload {s t : State} {p : List Byte} (hp : p.length = 10) (hlen : s.rawLen.toNat = 19)
    (hraw : ∀ i (h : i < (Config.pfxConfig ++ p ++ Config.terminator).length),
      s.byte .raw i = some (Config.pfxConfig ++ p ++ Config.terminator)[i])
    (h : exec .frameCfg s = .next t) :
    t.payLen.toNat = 10 ∧ ∀ j (hj : j < p.length), t.byte .pay j = some p[j] := by
  have hpfx : Config.pfxConfig.length = 7 := rfl
  have hstart : StartsWith s Config.pfxConfig := ⟨by omega, fun k hk => State.operandByte_of_byte <| by
    rw [hraw k (by simp only [List.length_append]; omega), List.getElem_append_left (by rw [List.length_append]; omega),
      List.getElem_append_left hk]⟩
  obtain ⟨u, hu, -, hpay, hbytes, -, -⟩ := frameCfgAcceptsConfigResponses s hlen hstart
  cases hu.symm.trans h
  refine ⟨hpay, fun j hj => ?_⟩
  rw [hbytes, if_pos (hp ▸ hj), State.operandByte_of_byte (hraw (7 + j) (by simp only [List.length_append]; omega)),
    List.getElem_append_left (by simp only [List.length_append]; omega), List.getElem_append_right (by omega)]
  simp [hpfx]

/-- DEC.CFG on a payload whose bytes are written decodes those bytes (41_decoder.md R126). -/
theorem exec_decCfg_payload {s : State} {p : List Byte} (hp : p.length = 10) (hlen : s.payLen.toNat = 10)
    (hpay : ∀ j (h : j < p.length), s.byte .pay j = some p[j]) {r : ConfigRecord} (hr : decodeConfig p = .ok r) :
    exec .decCfg s = .next (s.storeConfig r) := by
  have hregion : s.region .pay p.length = p :=
    State.region_eq_iff.mpr fun j h => State.operandByte_of_byte (hpay j h)
  rw [hp] at hregion
  exact exec_decCfg hlen (hregion.symm ▸ hr)

/-- Loading a CONFIG response with the payload `p` and framing it leaves `p` in PAY: 21 transactions. -/
theorem runsTo_frameCfg {s : State} {p : List Byte} (hp : p.length = 10) {rest : List HostTxn}
    (hs : s.pending = Script.loadraw (Config.pfxConfig ++ p ++ Config.terminator) ++
      .regWrite 0x00 0x1100#16 :: rest) :
    ∃ t, RunsTo 21 s t ∧ t.pending = rest ∧ t.payLen.toNat = 10 ∧
      ∀ j (h : j < p.length), t.byte .pay j = some p[j] := by
  have hlen : (Config.pfxConfig ++ p ++ Config.terminator).length = 19 := by
    simp [hp, Config.pfxConfig, Config.terminator]
  obtain ⟨t, hload, hpend, hrawLen, hraw, -, -, -⟩ := loadrawLoadsTheResponse s _ _ (by omega) hs
  obtain ⟨u, hu, hframe, hrest⟩ := runsTo_commandWrite hpend (decode_encode .frameCfg)
  obtain ⟨hpay, hbytes⟩ := exec_frameCfg_payload (s := (t.withPending rest).storeReg .cmd _) hp (hrawLen.trans hlen)
    (fun i h => by simpa using hraw i h) hu
  rw [hlen] at hload
  exact ⟨_, hload.trans hframe, hrest, hpay, fun j h => by simpa using hbytes j h⟩

end Sys2Proof.Machine
end

/-! ### The statements -/

section
namespace Sys2Proof.Machine
open Sys2Proof.Machine.Claim

/-- Settles O29: the record is the payload's, and the group it is stored in is a decoded one. -/
theorem decCfgDecodesTheConfigLayout : Obligations.DecCfgDecodesTheConfigLayout := by
  intro s hlen
  have group := configGroupDecoded_storeConfig s.decodeConfig_region
  have effect := Effect.config _ s.decodeConfig_region
  have valid := s.cfgValid_storeConfig
  exact ⟨_, exec_decCfg hlen s.decodeConfig_region, effect.onlyGroup, toNat_ofNat_be16 _ _, rfl, rfl, rfl, rfl, rfl,
    rfl, rfl, group.known (valid _), group.tmoMin_eq (valid _) (by decide), group.tmoMin_eq (valid _) (by decide),
    group.tmoMin_eq (valid _) (by decide), group.tmoMin_eq (valid _) (by decide), rfl,
    bool3Agrees_of_toNat_eq (group.beep (valid _)), valid _, effect.statusAfter rfl⟩

/-- Settles O30: the record is the payload's, and the group it is stored in is a decoded one. -/
theorem decBatDecodesTheBatteryLayout : Obligations.DecBatDecodesTheBatteryLayout := by
  intro s hlen
  have group := batteryGroupDecoded_storeBattery s.decodeBattery_region
  have effect := Effect.battery _ s.decodeBattery_region
  have valid := s.batValid_storeBattery
  have known := group.known (valid _)
  exact ⟨_, exec_decBat hlen s.decodeBattery_region, effect.onlyGroup, rfl, known,
    fun hhigh hlow => group.percent (valid _) (known.mpr ⟨hhigh, hlow⟩), rfl,
    bool3Agrees_of_toNat_eq (group.charging (valid _)), valid _, effect.statusAfter rfl⟩

/-- Settles O31: both commands make the error entry of their own group. -/
theorem decOfAnotherLengthIsLengthMismatch : Obligations.DecOfAnotherLengthIsLengthMismatch := by
  refine ⟨fun s hlen => ?_, fun s hlen => ?_⟩
  · have effect := Effect.raise (s := s) .config .lengthMismatch
    exact ⟨_, exec_decCfg_mismatch hlen, effect.onlyGroup, by simp, by simp,
      fun _ hq => s.raise_config_unspecified _ hq, effect.statusAfter rfl⟩
  · have effect := Effect.raise (s := s) .battery .lengthMismatch
    exact ⟨_, exec_decBat_mismatch hlen, effect.onlyGroup, by simp, by simp,
      fun _ hq => s.raise_battery_unspecified _ hq, effect.statusAfter rfl⟩

/-- Settles O32: the framer leaves the payload in PAY, from which DEC.CFG takes each field. -/
theorem configResponseRoundTrips : Obligations.ConfigResponseRoundTrips := by
  intro s p0 p1 p2 p3 p4 p5 p6 p7 p8 p9 rest hs
  rw [List.append_assoc] at hs
  obtain ⟨t, hframe, hpend, hlen, hpay⟩ := runsTo_frameCfg (p := [p0, p1, p2, p3, p4, p5, p6, p7, p8, p9]) rfl
    (rest := .regWrite 0x00 0x2100#16 :: rest) hs
  obtain ⟨u, hu, hdec, hrest⟩ := runsTo_commandWrite hpend (decode_encode .decCfg)
  have decoded := exec_decCfg_payload (s := (t.withPending rest).storeReg .cmd 0x2100#16) rfl hlen
    (fun j h => by simpa using hpay j h) rfl
  cases decoded.symm.trans hu
  refine ⟨_, hframe.trans hdec, hrest, by simp, by simp, toNat_ofNat_be16 p0 p1, ?_⟩
  exact congrArg₂ (· :: · :: [p2, p3, p4, p5, p6, p7, p8, p9]) (extractLsb'_high_be16 p0 p1)
    (extractLsb'_low_be16 p0 p1)

/-- Settles O28, from the equation of each function; the hundred Known bytes are counted. -/
theorem classificationsOfEveryByte : Obligations.ClassificationsOfEveryByte :=
  ⟨fun b0 b1 => ⟨rfl, be16_lt b0 b1⟩, bool3_eq, timeoutMinutes_eq, batteryPercent_eq, rfl⟩

end Sys2Proof.Machine
end

/-! PROOFS of the statements about the raster unit (42_raster.md): the sample arithmetic, the bits of a packed byte,
what an ENC command leaves, the two forms of the dithering, and the theorems that settle the statements. -/

/-! ### The samples of a pixel -/

section
namespace Sys2Proof.Machine

/-- The level of an intensity is its quarter of the range (42_raster.md R152). -/
theorem toNat_quant2 (p : Byte) : (quant2 p).toNat = p.toNat / 64 := by
  have := p.isLt
  rw [quant2]
  simp only [Config.t1, Config.t2, Config.t3]
  split_ifs <;> simp only [BitVec.toNat_ofNat] <;> omega

theorem quant2_eq_extractLsb' (p : Byte) : quant2 p = p.extractLsb' 6 2 := by
  have := p.isLt
  apply BitVec.eq_of_toNat_eq
  rw [toNat_quant2, BitVec.extractLsb'_toNat, Nat.shiftRight_eq_div_pow]
  omega

theorem clamp_mem {lo hi : Int} (h : lo ≤ hi) (v : Int) : lo ≤ clamp v lo hi ∧ clamp v lo hi ≤ hi := by
  rw [clamp]
  split_ifs <;> omega

/-- The threshold decides what is left over: the distance to white or to black (42_raster.md R160). -/
theorem ditherError_eq (v : Int) : ditherError v = if 128 ≤ v then v - 255 else v := by
  by_cases h : 128 ≤ v
  · simp [ditherError, ditherBit, h]
  · simp [ditherError, ditherBit, h]

end Sys2Proof.Machine
end

/-! ### The bits of a packed byte -/

section
namespace Sys2Proof.Machine

/-- One step of packing a byte: sample `j` of the byte, if there is one, in its place (42_raster.md R155). -/
def placeSample {bpp : Nat} (out : Byte) (j : Nat) : Option (BitVec bpp) → Byte
  | some v => setField out (8 - bpp * (j + 1)) v
  | none => out

theorem packByte_eq_foldl {bpp : Nat} (samples : List (BitVec bpp)) (fill : Byte) (i : Nat) :
    packByte samples fill i =
      (List.range (8 / bpp)).foldl (fun out j => placeSample out j samples[i * (8 / bpp) + j]?) fill := rfl

/-- Bit `r` of place `j` after a sample was put in place `m`. -/
theorem getLsbD_placeSample {bpp m j r : Nat} (hm : bpp * (m + 1) ≤ 8) (hj : bpp * (j + 1) ≤ 8) (hr : r < bpp)
    (out : Byte) (sample : Option (BitVec bpp)) :
    (placeSample out m sample).getLsbD (8 - bpp * (j + 1) + r) =
      if j = m then sample.elim (out.getLsbD (8 - bpp * (j + 1) + r)) (·.getLsbD r)
      else out.getLsbD (8 - bpp * (j + 1) + r) := by
  cases sample with
  | none => simp [placeSample]
  | some v =>
    rw [placeSample, getLsbD_setField _ _ _ (by rw [Nat.mul_succ] at hm ⊢; omega)]
    rcases Nat.lt_trichotomy j m with h | rfl | h
    · have apart := Nat.mul_le_mul_left bpp (Nat.succ_le_of_lt h)
      simp only [Nat.mul_succ] at hm hj apart ⊢
      rw [if_neg (by omega), if_neg h.ne]
    · rw [if_pos (by omega), if_pos rfl, Nat.add_sub_cancel_left, Option.elim_some]
    · have apart := Nat.mul_le_mul_left bpp (Nat.succ_le_of_lt h)
      simp only [Nat.mul_succ] at hm hj apart ⊢
      rw [if_neg (by omega), if_neg h.ne']

/-- Bit `r` of place `j` after the first `k` places were filled. -/
theorem getLsbD_foldl_placeSample {bpp k j r : Nat} (hk : bpp * k ≤ 8) (hj : bpp * (j + 1) ≤ 8) (hr : r < bpp)
    (sample : Nat → Option (BitVec bpp)) (fill : Byte) :
    ((List.range k).foldl (fun out m => placeSample out m (sample m)) fill).getLsbD (8 - bpp * (j + 1) + r) =
      if j < k then (sample j).elim (fill.getLsbD (8 - bpp * (j + 1) + r)) (·.getLsbD r)
      else fill.getLsbD (8 - bpp * (j + 1) + r) := by
  induction k with
  | zero => rfl
  | succ k ih =>
    rw [List.range_succ, List.foldl_append, List.foldl_cons, List.foldl_nil, getLsbD_placeSample hk hj hr,
      ih ((Nat.mul_le_mul_left bpp (Nat.le_succ k)).trans hk)]
    rcases Nat.lt_trichotomy j k with h | rfl | h
    · rw [if_neg h.ne, if_pos h, if_pos (h.trans (Nat.lt_succ_self k))]
    · rw [if_pos rfl, if_neg (Nat.lt_irrefl j), if_pos (Nat.lt_succ_self j)]
    · rw [if_neg h.ne', if_neg h.not_gt, if_neg (by omega)]

/-- Bit `r` of place `j` of a packed byte is that of the sample there, or the fill byte's bit where the samples have
ended (42_raster.md R155, R156). -/
theorem getLsbD_packByte {bpp j r : Nat} (hj : j < 8 / bpp) (hr : r < bpp) (samples : List (BitVec bpp)) (fill : Byte)
    (i : Nat) :
    (packByte samples fill i).getLsbD (8 - bpp * (j + 1) + r) =
      samples[i * (8 / bpp) + j]?.elim (fill.getLsbD (8 - bpp * (j + 1) + r)) (·.getLsbD r) := by
  have room : bpp * (8 / bpp) ≤ 8 := Nat.mul_div_le 8 bpp
  rw [packByte_eq_foldl, getLsbD_foldl_placeSample room ((Nat.mul_le_mul_left bpp hj).trans room) hr, if_pos hj]

/-- Every bit `k` of a byte is bit `r` of a place `j`, and a grid of `n` samples that ends before the bit ends before
that place, in any byte `i` (42_raster.md R155). -/
theorem place_of_bit {bpp k : Nat} (hb : bpp = 1 ∨ bpp = 2) (hk : k < 8) :
    ∃ j r, j < 8 / bpp ∧ r < bpp ∧ k = 8 - bpp * (j + 1) + r ∧
      ∀ i n, n * bpp ≤ 8 * i + (7 - k) → n ≤ i * (8 / bpp) + j := by
  refine ⟨(7 - k) / bpp, bpp - 1 - (7 - k) % bpp, ?_⟩
  rcases hb with rfl | rfl
  · exact ⟨by omega, by omega, by omega, fun i n h => by omega⟩
  · exact ⟨by omega, by omega, by omega, fun i n h => by omega⟩

/-- A bit that no sample covers is the fill byte's (42_raster.md R156). -/
theorem getLsbD_packByte_fill {bpp i k : Nat} (hb : bpp = 1 ∨ bpp = 2) {samples : List (BitVec bpp)} (hk : k < 8)
    (h : samples.length * bpp ≤ 8 * i + (7 - k)) (fill : Byte) :
    (packByte samples fill i).getLsbD k = fill.getLsbD k := by
  obtain ⟨j, r, hj, hr, rfl, hn⟩ := place_of_bit hb hk
  rw [getLsbD_packByte hj hr, List.getElem?_eq_none (hn i _ h), Option.elim_none]

/-- A byte past the samples is the fill byte. -/
theorem packByte_fill {bpp i : Nat} (hb : bpp = 1 ∨ bpp = 2) {samples : List (BitVec bpp)}
    (h : samples.length * bpp ≤ 8 * i) (fill : Byte) : packByte samples fill i = fill :=
  BitVec.eq_of_getLsbD_eq fun _ hk => getLsbD_packByte_fill hb hk (h.trans (Nat.le_add_right _ _)) fill

/-- A byte packed from ones on ones is all ones (42_raster.md R161). -/
theorem packByte_allOnes {samples : List (BitVec 1)} (h : ∀ v ∈ samples, v = 1#1) (i : Nat) :
    packByte samples 0xFF#8 i = 0xFF#8 := by
  have ones : ∀ k < 8, (0xFF#8).getLsbD k = true := by decide
  refine BitVec.eq_of_getLsbD_eq fun k hk => ?_
  obtain ⟨j, r, hj, hr, rfl, -⟩ := place_of_bit (.inl rfl) hk
  rw [getLsbD_packByte hj hr]
  cases hv : samples[i * (8 / 1) + j]? with
  | none => rfl
  | some v =>
    obtain rfl : r = 0 := Nat.lt_one_iff.mp hr
    rw [h v (List.mem_of_getElem? hv), ones _ hk]
    rfl

/-- A packed and padded grid is packed bytes throughout: those past the samples are the fill byte (42_raster.md R155 to
R157). -/
theorem pad_pack {bpp n : Nat} (hb : bpp = 1 ∨ bpp = 2) {samples : List (BitVec bpp)}
    (h : ceilDiv (samples.length * bpp) 8 ≤ n) (fill : Byte) :
    pad (pack samples fill) n fill = (List.range n).map (packByte samples fill) := by
  obtain ⟨m, rfl⟩ := Nat.exists_eq_add_of_le h
  have tail : (List.range m).map (packByte samples fill ∘ (ceilDiv (samples.length * bpp) 8 + ·)) =
      List.replicate m fill := by
    refine List.eq_replicate_iff.mpr ⟨by simp, fun b hmem => ?_⟩
    obtain ⟨i, -, rfl⟩ := List.mem_map.mp hmem
    exact packByte_fill hb (by simp only [ceilDiv]; omega) fill
  rw [pad, length_pack, Nat.add_sub_cancel_left, List.range_add, List.map_append, List.map_map, tail, pack]

end Sys2Proof.Machine
end

/-! ### What an ENC command leaves -/

section
namespace Sys2Proof.Machine
open Sys2Proof.Machine.Claim

/-- The ENC command of each sample width (42_raster.md R163, R164). -/
def Encodes (i : Instr) (bpp : Nat) : Prop := i = .enc1 ∧ bpp = 1 ∨ i = .enc2 ∧ bpp = 2

theorem exists_encodes {i : Instr} (h : outputGroupOf i = .raster) : ∃ bpp, Encodes i bpp := by
  cases i <;> cases h
  case enc1 => exact ⟨1, .inl ⟨rfl, rfl⟩⟩
  case enc2 => exact ⟨2, .inr ⟨rfl, rfl⟩⟩

theorem Encodes.group {i : Instr} {bpp : Nat} (h : Encodes i bpp) : outputGroupOf i = .raster := by
  rcases h with ⟨rfl, -⟩ | ⟨rfl, -⟩ <;> rfl

/-- A check that fails is the error entry of the raster (42_raster.md R151). -/
theorem exec_enc_error {i : Instr} {bpp : Nat} (hi : Encodes i bpp) {s : State} {e : ErrorCode}
    (h : rasterLength bpp s = .error e) : exec i s = .next (s.raise .raster e) := by
  rcases hi with ⟨rfl, rfl⟩ | ⟨rfl, rfl⟩
  · rw [exec, execEnc1, h]
  · rw [exec, execEnc2, h]

theorem rasterLength_fits {bpp : Nat} {s : State} (h : GridFits bpp s) :
    rasterLength bpp s = .ok (ceilDiv (s.pixelCount * bpp) 8) := by
  have hfit : ceilDiv (s.pixelCount * bpp) 8 ≤ s.padLen.toNat := h.2
  rw [rasterLength, if_neg h.1.not_gt, if_neg hfit.not_gt]

theorem exec_enc1_fits {s : State} (h : GridFits 1 s) :
    exec .enc1 s = .next (s.storeRaster (ceilDiv (s.pixelCount * 1) 8) (pack s.samples1 s.padByte)) := by
  rw [exec, execEnc1, rasterLength_fits h]

theorem exec_enc2_fits {s : State} (h : GridFits 2 s) :
    exec .enc2 s = .next (s.storeRaster (ceilDiv (s.pixelCount * 2) 8) (pack s.samples2 s.padByte)) := by
  rw [exec, execEnc2, rasterLength_fits h]

/-- The error entry of the raster (60_exceptions.md R206). -/
theorem encodeFailed_raise (s : State) (e : ErrorCode) : EncodeFailed s (s.raise .raster e) (errorNumber e).toNat :=
  ⟨rfl, rfl, rfl, fun _ => rfl, (Effect.raise .raster e).statusAfter rfl⟩

section
variable {bpp : Nat} (hb : bpp = 1 ∨ bpp = 2) {s : State} (hfit : GridFits bpp s) {samples : List (BitVec bpp)}
  (hlen : samples.length = s.pixelCount)
include hb hfit hlen

/-- The raster of a grid that fits, byte by byte (42_raster.md R155 to R157). -/
theorem byte_ras_storeRaster (len i : Nat) :
    (s.storeRaster len (pack samples s.padByte)).byte .ras i =
      if i < s.padLen.toNat then some (packByte samples s.padByte i) else none := by
  change (Mem.ofBytes (pad (pack samples s.padByte) s.padLen.toNat s.padByte)).read i = _
  rw [Mem.read_ofBytes, pad_pack hb (by rw [hlen]; exact hfit.2)]
  by_cases hi : i < s.padLen.toNat
  · simp [hi]
  · simp [hi]

/-- An ENC command that ends without error leaves its samples' raster (42_raster.md R163, R164). -/
theorem encoded_storeRaster :
    Encoded bpp s (s.storeRaster (ceilDiv (s.pixelCount * bpp) 8) (pack samples s.padByte)) := by
  have hbyte := byte_ras_storeRaster hb hfit hlen (ceilDiv (s.pixelCount * bpp) 8)
  obtain ⟨hcap, hpad⟩ := hfit
  have effect := Effect.raster (s := s) (ceilDiv (s.pixelCount * bpp) 8) (pack samples s.padByte) hcap
    (by rw [length_pack, hlen]; exact hpad)
  refine ⟨effect.onlyGroup, ?_, rfl, fun i => ?_, fun i v k hv hk hn => ?_, effect.statusAfter rfl⟩
  · exact (BitVec.toNat_ofNat _ _).trans (Nat.mod_eq_of_lt ((hpad.trans hcap).trans_lt (by decide)))
  · rw [hbyte]
    split_ifs with hi <;> simp [hi]
  · rw [hbyte] at hv
    split_ifs at hv
    cases hv
    exact getLsbD_packByte_fill hb hk (by rw [hlen]; exact hn) s.padByte

end

/-- The success of an ENC command, in the terms of its statement (42_raster.md R163, R164). -/
theorem Completes.encoded {i : Instr} {bpp : Nat} (hi : Encodes i bpp) {s t : State} (h : Completes i s t) :
    GridFits bpp s ∧ Encoded bpp s t := by
  rcases hi with ⟨rfl, rfl⟩ | ⟨rfl, rfl⟩
  · obtain ⟨rfl, hfit⟩ := h
    exact ⟨hfit, encoded_storeRaster (.inl rfl) hfit (length_samples1 s)⟩
  · obtain ⟨rfl, hfit⟩ := h
    exact ⟨hfit, encoded_storeRaster (.inr rfl) hfit (length_samples2 s)⟩

/-- The code of an error that a command can raise is not that of success (60_exceptions.md R201). -/
theorem errorNumber_ne_zero {i : Instr} {e : ErrorCode} (h : e ∈ errorsOf i) : (errorNumber e).toNat ≠ 0 := by
  cases e with
  | noError => exact absurd h (by cases i <;> decide)
  | badPrefix | badLength | lengthMismatch | oversize | illegalCommand | badConfig => decide

/-- Every way an ENC command can have answered. -/
theorem exec_enc_cases {i : Instr} {bpp : Nat} (hi : Encodes i bpp) {s t : State} (h : exec i s = .next t) :
    (∃ c, c ≠ 0 ∧ EncodeFailed s t c) ∨ GridFits bpp s ∧ Encoded bpp s t := by
  rcases exec_next_cases h with ⟨e, he, rfl⟩ | hc
  · rw [hi.group]
    exact .inl ⟨_, errorNumber_ne_zero he, encodeFailed_raise s e⟩
  · exact .inr (hc.encoded hi)

end Sys2Proof.Machine
end

/-! ### The invariant of the raster -/

section
namespace Sys2Proof.Machine
open Sys2Proof.Machine.Claim

/-- What the invariant of the raster speaks of is the same in two states. -/
structure SameRaster (s t : State) : Prop where
  packLen : t.packLen = s.packLen
  rasLen : t.rasLen = s.rasLen
  ras : t.ras = s.ras

theorem RasterConsistent.congr {s t : State} (hs : RasterConsistent s) (h : SameRaster s t) : RasterConsistent t where
  pack := by rw [h.packLen, h.rasLen]; exact hs.pack
  cap := by rw [h.rasLen]; exact hs.cap
  valid := fun i => by
    rw [h.rasLen, State.byte, State.buf, h.ras]
    exact hs.valid i

theorem SameRaster.of_block {s t : State} (h : s.block = t.block) : SameRaster s t :=
  ⟨(State.regValue_of_block h .packLen).symm, (State.regValue_of_block h .rasLen).symm,
    (State.buf_of_block h .ras).symm⟩

/-- The host cannot write RAS (10_state.md R30). -/
theorem State.sameRaster_setBuf (s : State) {b : Buf} (hb : bufWritable b = true) (m : Mem) :
    SameRaster s (s.setBuf b m) :=
  ⟨s.regValue_setBuf b m .packLen, s.regValue_setBuf b m .rasLen,
    s.buf_setBuf_ne (c := .ras) m (fun h => by rw [← h] at hb; cases hb)⟩

/-- The host cannot write PACK_LEN and RAS_LEN (10_state.md R21). -/
theorem State.sameRaster_storeReg (s : State) {r : Reg} (hr : regWritable r = true) (v : Word) :
    SameRaster s (s.storeReg r v) :=
  ⟨s.regValue_storeReg_ne (q := .packLen) v (fun h => by rw [← h] at hr; cases hr),
    s.regValue_storeReg_ne (q := .rasLen) v (fun h => by rw [← h] at hr; cases hr), s.buf_storeReg r v .ras⟩

/-- The raster belongs to the ENC commands (60_exceptions.md R206). -/
theorem Effect.sameRaster {s t : State} {g : OutputGroup} (h : Effect s g t) (hg : g ≠ .raster) : SameRaster s t := by
  have only := h.onlyGroup
  cases g <;> simp at hg <;> exact ⟨by rw [only], by rw [only], by rw [only]⟩

/-- A failed ENC command leaves an empty raster (60_exceptions.md R206). -/
theorem rasterConsistent_of_encodeFailed {s t : State} {c : Nat} (h : EncodeFailed s t c) : RasterConsistent t := by
  obtain ⟨-, hras, hpack, hbyte, -⟩ := h
  exact ⟨by rw [hpack, hras], by rw [hras]; decide, fun i => by simp [hbyte, hras]⟩

/-- An ENC command that ends without error leaves a raster of PAD_LEN bytes (42_raster.md R166). -/
theorem rasterConsistent_of_encoded {bpp : Nat} {s t : State} (hfit : GridFits bpp s) (h : Encoded bpp s t) :
    RasterConsistent t := by
  obtain ⟨-, hpack, hras, hbyte, -, -⟩ := h
  exact ⟨by rw [hpack, hras]; exact hfit.2, by rw [hras]; exact hfit.1, fun i => by rw [hras]; exact hbyte i⟩

theorem rasterConsistent_raise {s : State} (hs : RasterConsistent s) (g : OutputGroup) (e : ErrorCode) :
    RasterConsistent (s.raise g e) := by
  by_cases hg : g = .raster
  · subst hg
    exact rasterConsistent_of_encodeFailed (encodeFailed_raise s e)
  · exact hs.congr ((Effect.raise g e).sameRaster hg)

theorem Completes.rasterConsistent {i : Instr} {s t : State} (h : Completes i s t) (hs : RasterConsistent s) :
    RasterConsistent t := by
  by_cases hg : outputGroupOf i = .raster
  · obtain ⟨bpp, hi⟩ := exists_encodes hg
    obtain ⟨hfit, hencoded⟩ := h.encoded hi
    exact rasterConsistent_of_encoded hfit hencoded
  · by_cases hn : i = .nop
    · subst hn
      exact h ▸ hs
    · by_cases hc : i = .clr
      · subst hc
        exact h ▸ rasterConsistent_reset.congr ⟨rfl, rfl, rfl⟩
      · exact hs.congr ((h.effect hn hc).sameRaster hg)

end Sys2Proof.Machine
end

/-! ### The dithering of an even grid -/

section
namespace Sys2Proof.Machine

theorem addError_zero (errs : List Int) (i : Nat) : addError errs i 0 = errs := by
  simp only [addError, Int.add_zero]
  exact List.modify_id i errs

/-- A pixel that leaves no error pushes nothing (42_raster.md R160). -/
theorem spreadError_zero (w h x y : Nat) (errs : List Int) : spreadError w h x y 0 errs = errs := by
  simp only [spreadError, Int.mul_zero, addError_zero, ite_self]

/-- A grid of one intensity that leaves no error has one bit (42_raster.md R161). -/
theorem ditherFrom_replicate {p : Byte} (hp : ditherError (ditherValue p 0) = 0) (w h n m k : Nat) :
    ditherFrom w h n (List.replicate m 0) (List.replicate k p) =
      List.replicate k (ditherBit (ditherValue p 0)) := by
  induction k generalizing n m with
  | zero => rfl
  | succ k ih =>
    have hhead : (List.replicate m (0 : Int)).headD 0 = 0 := by cases m <;> rfl
    rw [List.replicate_succ, ditherFrom, hhead, hp, spreadError_zero, List.tail_replicate, ih, List.replicate_succ]

theorem dither_replicate {p : Byte} (hp : ditherError (ditherValue p 0) = 0) (w h k : Nat) :
    dither w h (List.replicate k p) = List.replicate k (ditherBit (ditherValue p 0)) :=
  ditherFrom_replicate hp w h 0 _ k

theorem dither_white (w h k : Nat) : dither w h (List.replicate k 255#8) = List.replicate k 1#1 :=
  dither_replicate rfl w h k

theorem dither_black (w h k : Nat) : dither w h (List.replicate k 0#8) = List.replicate k 0#1 :=
  dither_replicate rfl w h k

end Sys2Proof.Machine
end

/-! ### The scan of one row -/

section
namespace Sys2Proof.Machine
open Sys2Proof.Machine.Claim

/-- The error of column `d` of a row whose columns from `x` on have the errors `es`, those before having none. -/
def errorAt (x : Nat) (es : List Int) (d : Nat) : Int := if x ≤ d then es.getD (d - x) 0 else 0

/-- What the columns from `x` on of a row, with the errors `es`, push down to column `c` of the next row
(42_raster.md R160). -/
def pushedFrom (x : Nat) (es : List Int) (c : Nat) : Int :=
  (if c = 0 then 0 else errorAt x es (c - 1)) + 5 * errorAt x es c + 3 * errorAt x es (c + 1)

theorem errorAt_nil (x d : Nat) : errorAt x [] d = 0 := by simp [errorAt]

theorem errorAt_cons (x : Nat) (e : Int) (es : List Int) (d : Nat) :
    errorAt x (e :: es) d = (if d = x then e else 0) + errorAt (x + 1) es d := by
  rcases Nat.lt_trichotomy d x with h | rfl | h
  · simp [errorAt, h.ne, h.not_ge, show ¬ x + 1 ≤ d by omega]
  · simp [errorAt]
  · rw [errorAt, errorAt, if_pos h.le, if_neg h.ne', if_pos (Nat.succ_le_of_lt h), Int.zero_add,
      show d - x = d - (x + 1) + 1 by omega, List.getD_cons_succ]

theorem pushedFrom_nil (x c : Nat) : pushedFrom x [] c = 0 := by simp [pushedFrom, errorAt_nil]

/-- The pixel of column `x` pushes 1, 5 and 3 sixteenths to the columns `x + 1`, `x` and `x - 1` below. -/
theorem pushedFrom_cons (x : Nat) (e : Int) (es : List Int) (c : Nat) :
    pushedFrom x (e :: es) c =
      (if c + 1 = x then 3 * e else 0) + (if c = x then 5 * e else 0) + (if c = x + 1 then e else 0) +
        pushedFrom (x + 1) es c := by
  simp only [pushedFrom, errorAt_cons]
  split_ifs <;> omega

/-- The pushes of a whole row are the pulls of the next one. -/
theorem pushedFrom_zero (es : List Int) {c : Nat} (hc : c < es.length) :
    pushedFrom 0 es c = (pushedDown es).getD c 0 := by
  simp [pushedFrom, pushedDown, errorAt, hc]

@[simp] theorem length_ditherRow (left : Int) (above : List Int) (row : List Byte) :
    (ditherRow left above row).length = row.length := by
  induction row generalizing left above with
  | nil => rfl
  | cons p row ih => simp [ditherRow, ih]

theorem length_ite_addError (P : Prop) [Decidable P] (errs : List Int) (k : Nat) (d : Int) :
    (if P then addError errs k d else errs).length = errs.length := by split_ifs <;> simp

theorem getD_ite_addError (P : Prop) [Decidable P] {errs : List Int} {i : Nat} (hi : i < errs.length) (k : Nat)
    (d : Int) :
    (if P then addError errs k d else errs).getD i 0 = errs.getD i 0 + if i = k ∧ P then d else 0 := by
  by_cases hP : P
  · by_cases hk : i = k
    · subst hk; simp [hP, addError, hi]
    · simp [hP, addError, hk, Ne.symm hk]
  · simp [hP]

@[simp] theorem length_spreadError (w h x y : Nat) (e : Int) (errs : List Int) :
    (spreadError w h x y e errs).length = errs.length := by
  simp only [spreadError, length_ite_addError]

/-- What each entry of the error grid takes from a pixel, counted from that pixel on (42_raster.md R160). -/
theorem getD_spreadError {i : Nat} {errs : List Int} (hi : i < errs.length) (w h x y : Nat) (e : Int) :
    (spreadError w h x y e errs).getD i 0 = errs.getD i 0 + (if i = 1 ∧ x + 1 < w then 7 * e else 0) +
      (if i = w - 1 ∧ y + 1 < h ∧ 1 ≤ x then 3 * e else 0) + (if i = w ∧ y + 1 < h then 5 * e else 0) +
      (if i = w + 1 ∧ y + 1 < h ∧ x + 1 < w then e else 0) := by
  simp only [spreadError]
  rw [getD_ite_addError, getD_ite_addError, getD_ite_addError, getD_ite_addError _ hi]
  · simp only [Config.fsRight, Config.fsBelowLeft, Config.fsBelow, Config.fsBelowRight, Int.one_mul]
  all_goals simpa only [length_ite_addError] using hi

/-- The scan from column `x` of row `y` to the end of the row gives the bits of the row form, and adds to the errors of
the next row what the pixels of the row push down. -/
theorem ditherFrom_row {w h y : Nat} {row rest : List Byte} (hrest : rest ≠ [] → y + 1 < h) (x : Nat) (left : Int)
    (above errs : List Int) (hx : x + row.length = w) (hlen : errs.length = row.length + rest.length)
    (hcur : ∀ i < row.length, errs.getD i 0 = above.getD i 0 + if i = 0 then 7 * left else 0) :
    ∃ errs' : List Int, errs'.length = rest.length ∧
      (∀ c < rest.length, errs'.getD c 0 = errs.getD (row.length + c) 0 +
        if c < w then pushedFrom x ((ditherRow left above row).map (·.2)) c else 0) ∧
      ditherFrom w h (w * y + x) errs (row ++ rest) =
        (ditherRow left above row).map (·.1) ++ ditherFrom w h (w * y + w) errs' rest := by
  induction row generalizing x left above errs with
  | nil =>
    refine ⟨errs, by simpa using hlen, fun c _ => ?_, ?_⟩
    · simp [ditherRow, pushedFrom_nil]
    · rw [← hx]; simp [ditherRow]
  | cons p row ih =>
    rw [List.length_cons] at hx hlen
    have hcol : (w * y + x) % w = x := by rw [Nat.mul_add_mod, Nat.mod_eq_of_lt (by omega)]
    have hrow : (w * y + x) / w = y := by
      rw [Nat.mul_add_div (by omega), Nat.div_eq_of_lt (by omega), Nat.add_zero]
    have hhead : errs.headD 0 = above.headD 0 + 7 * left := by
      simpa [List.headD_eq_head?_getD, List.head?_eq_getElem?] using hcur 0 (by simp)
    generalize hv : ditherValue p (above.headD 0 + 7 * left) = v
    have hnext : ∀ i < row.length + rest.length, (spreadError w h x y (ditherError v) errs).tail.getD i 0 =
        (spreadError w h x y (ditherError v) errs).getD (i + 1) 0 := fun i _ => by simp
    have hcur' : ∀ i < row.length, (spreadError w h x y (ditherError v) errs).tail.getD i 0 =
        above.tail.getD i 0 + if i = 0 then 7 * ditherError v else 0 := fun i hi => by
      rw [hnext i (by omega), getD_spreadError (by omega), hcur (i + 1) (Nat.succ_lt_succ hi),
        if_neg (Nat.succ_ne_zero i), if_neg (show ¬ (i + 1 = w - 1 ∧ y + 1 < h ∧ 1 ≤ x) by omega),
        if_neg (show ¬ (i + 1 = w ∧ y + 1 < h) by omega),
        if_neg (show ¬ (i + 1 = w + 1 ∧ y + 1 < h ∧ x + 1 < w) by omega)]
      simp [show x + 1 < w by omega]
    obtain ⟨errs', hlen', hdown, hscan⟩ := ih (x + 1) (ditherError v) above.tail
      (spreadError w h x y (ditherError v) errs).tail (by omega) (by simp; omega) hcur'
    refine ⟨errs', hlen', fun c hc => ?_, ?_⟩
    · have hy : y + 1 < h := hrest (List.ne_nil_of_length_pos (by omega))
      rw [hdown c hc, hnext _ (by omega), getD_spreadError (by omega),
        if_neg (show ¬ (row.length + c + 1 = 1 ∧ x + 1 < w) by omega)]
      simp only [ditherRow, hv, List.map_cons, pushedFrom_cons, List.length_cons, Nat.add_right_comm row.length c 1]
      split_ifs <;> omega
    · rw [List.cons_append, ditherFrom, hcol, hrow, hhead, hv]
      simp only [ditherRow, hv, List.map_cons, List.cons_append]
      exact congrArg _ hscan

/-- The scan from row `y` on is the row form, once the errors of row `y` are those it pulls from above. -/
theorem ditherFrom_eq_ditherRows {w h : Nat} (k y : Nat) (hy : y + k = h) (above errs : List Int) {g : List Byte}
    (hg : g.length = w * k) (hlen : errs.length = w * k)
    (habove : ∀ i < w * k, errs.getD i 0 = if i < w then above.getD i 0 else 0) :
    ditherFrom w h (w * y) errs g = ditherRows w above k g := by
  induction k generalizing y above errs g with
  | zero =>
    obtain rfl := List.length_eq_zero_iff.mp hg
    rfl
  | succ k ih =>
    rw [Nat.mul_succ] at hg hlen habove
    have hrow : (g.take w).length = w := by rw [List.length_take]; omega
    have hdrop : (g.drop w).length = w * k := by rw [List.length_drop]; omega
    have hrest : g.drop w ≠ [] → y + 1 < h := fun hne => by
      have hpos : 0 < w * k := hdrop ▸ List.length_pos_iff.mpr hne
      have := Nat.pos_of_mul_pos_left hpos
      omega
    obtain ⟨errs', hlen', hdown, hscan⟩ := ditherFrom_row (w := w) (row := g.take w) hrest 0 0 above errs (by omega)
      (by omega) fun i hi => by rw [habove i (by omega), if_pos (by omega), Int.mul_zero, ite_self, Int.add_zero]
    rw [hdrop] at hlen' hdown
    rw [List.take_append_drop, Nat.add_zero, ← Nat.mul_succ] at hscan
    rw [hscan, ih (y + 1) (by omega) (pushedDown ((ditherRow 0 above (g.take w)).map (·.2))) errs' hdrop hlen']
    · rfl
    · intro c hc
      rw [hdown c hc, hrow, habove (w + c) (by omega), if_neg (by omega), Int.zero_add]
      split_ifs with hcw
      · exact pushedFrom_zero _ (by simpa [hrow] using hcw)
      · rfl

end Sys2Proof.Machine
end

/-! ### The statements -/

section
namespace Sys2Proof.Machine
open Sys2Proof.Machine.Claim

/-- Settles O53: only the ENC commands and CLR touch the raster, and each way they end leaves it consistent. -/
theorem stepKeepsRasterConsistent : Obligations.StepKeepsRasterConsistent := fun _ _ =>
  step_keeps
    (block := fun _ _ hb hs => hs.congr (.of_block hb))
    (bufWrite := fun s _ _ _ hb _ hs => hs.congr (s.sameRaster_setBuf hb _))
    (regWrite := fun s _ v hr hs => hs.congr (s.sameRaster_storeReg hr v))
    (raise := fun _ i e _ hs => rasterConsistent_raise hs (outputGroupOf i) e)
    (illegal := fun _ hs => rasterConsistent_raise hs .nothing .illegalCommand)
    (completes := fun _ _ _ h hs => h.rasterConsistent hs)

/-- Settles O34: the samples are the levels, each in its place of two bits. -/
theorem enc2PacksTheQuantisedGrid : Obligations.Enc2PacksTheQuantisedGrid := by
  intro s hfit
  have hlen := length_samples2 s
  refine ⟨_, exec_enc2_fits hfit, encoded_storeRaster (.inr rfl) hfit hlen, fun n hn => ?_⟩
  have hpad := hfit.2
  refine ⟨_, (byte_ras_storeRaster (.inr rfl) hfit hlen _ _).trans (if_pos (by omega)), ?_⟩
  have hsample : s.samples2[n]? = some (quant2 (s.operandByte .pix n)) := by
    rw [State.samples2, List.getElem?_map, State.getElem?_region, if_pos (show n < s.pixelCount from hn),
      Option.map_some]
  have hplace : (packByte s.samples2 s.padByte (n / 4)).extractLsb' (6 - 2 * (n % 4)) 2 =
      quant2 (s.operandByte .pix n) := by
    refine BitVec.eq_of_getLsbD_eq fun r hr => ?_
    have hbit := getLsbD_packByte (show n % 4 < 8 / 2 by omega) hr s.samples2 s.padByte (n / 4)
    rw [show n / 4 * (8 / 2) + n % 4 = n by omega, hsample, Option.elim_some] at hbit
    rw [BitVec.getLsbD_extractLsb', ← hbit, show 6 - 2 * (n % 4) + r = 8 - 2 * (n % 4 + 1) + r by omega]
    simp [hr]
  rw [hplace, toNat_quant2]

/-- Settles O35: the samples are the dithered bits, each in its place of one bit. -/
theorem enc1PacksTheDitheredGrid : Obligations.Enc1PacksTheDitheredGrid := by
  intro s hfit
  have hlen := length_samples1 s
  refine ⟨_, exec_enc1_fits hfit, encoded_storeRaster (.inl rfl) hfit hlen, fun n hn => ?_⟩
  have hpad := hfit.2
  have hsample : s.samples1[n]? = some (s.samples1[n]'(hlen ▸ hn)) := List.getElem?_eq_getElem _
  refine ⟨_, _, (byte_ras_storeRaster (.inl rfl) hfit hlen _ _).trans (if_pos (by omega)), hsample, ?_⟩
  have hbit := getLsbD_packByte (show n % 8 < 8 / 1 by omega) Nat.zero_lt_one s.samples1 s.padByte (n / 8)
  rw [show n / 8 * (8 / 1) + n % 8 = n by omega, hsample, Option.elim_some] at hbit
  rw [← hbit, show 7 - n % 8 = 8 - 1 * (n % 8 + 1) + 0 by omega]

/-- Settles O36: PAD_LEN is checked first, the exact product after it; each failure is an error entry. -/
theorem encChecksInOrder : Obligations.EncChecksInOrder := by
  intro i bpp s hi
  refine ⟨fun hcap => ?_, fun hcap hover => ?_⟩
  · exact ⟨_, exec_enc_error hi (if_pos hcap), encodeFailed_raise s .badConfig⟩
  · exact ⟨_, exec_enc_error hi ((if_neg hcap.not_gt).trans (if_pos hover)), encodeFailed_raise s .oversize⟩

/-- Settles O37: a success is of a grid that fits, and an error entry empties the raster. -/
theorem oversizeIsNeverTruncated : Obligations.OversizeIsNeverTruncated := by
  intro i bpp s t hi h
  rcases exec_enc_cases hi h with ⟨c, hc, hfail⟩ | ⟨hfit, hencoded⟩
  · obtain ⟨-, hras, -, hbyte, hok, -⟩ := hfail
    exact ⟨fun h => absurd (eq_of_beq (hok ▸ h)) hc, fun _ => ⟨hras, hbyte⟩⟩
  · obtain ⟨-, hpack, hras, -, -, -, herr, -⟩ := hencoded
    have hpad := hfit.2
    exact ⟨fun _ => by rw [hras]; omega, fun h => by omega⟩

/-- Settles O38: white and black leave no error, so nothing is pushed. -/
theorem ditherKeepsWhiteAndBlack : Obligations.DitherKeepsWhiteAndBlack := fun w h =>
  ⟨fun g hg => (length_ditherFrom w h 0 _ g).trans hg, dither_white w h _, dither_black w h _⟩

/-- Settles O40: the scan from the first row on, where no error has been pushed yet. -/
theorem ditherEqualsItsLineBufferForm : Obligations.DitherEqualsItsLineBufferForm := by
  intro w h g hg
  refine ditherFrom_eq_ditherRows h 0 (Nat.zero_add h) [] _ hg List.length_replicate fun i hi => ?_
  simp [hi]

/-- Settles O41: the samples of a white grid are ones, on a fill of ones. -/
theorem whiteImageEncodesToAllOnes : Obligations.WhiteImageEncodesToAllOnes := by
  intro s hfit hpad hwhite
  have hlen := length_samples1 s
  have hones : s.samples1 = List.replicate s.pixelCount 1#1 := by
    have hregion : s.region .pix s.pixelCount = List.replicate s.pixelCount 255#8 :=
      List.eq_replicate_iff.mpr ⟨s.length_region _ _, fun p hp => by
        obtain ⟨n, hn, rfl⟩ := List.mem_map.mp hp
        exact hwhite n (List.mem_range.mp hn)⟩
    rw [State.samples1, hregion, dither_white]
  refine ⟨_, exec_enc1_fits hfit, rfl, fun i hi => ?_⟩
  rw [byte_ras_storeRaster (.inl rfl) hfit hlen, if_pos hi, hpad, packByte_allOnes]
  exact fun v hv => List.eq_of_mem_replicate (hones ▸ hv)

/-- Settles O33: the level is the quarter of the range. -/
theorem quantiserIsTheTopTwoBits : Obligations.QuantiserIsTheTopTwoBits := by
  intro p
  have level : ∀ q : BitVec 2, p.toNat / 64 = q.toNat → quant2 p = q := fun q hq =>
    BitVec.eq_of_toNat_eq ((toNat_quant2 p).trans hq)
  have hp := p.isLt
  exact ⟨quant2_eq_extractLsb' p, fun h => level 0#2 (by simp; omega), fun h h' => level 1#2 (by simp; omega),
    fun h h' => level 2#2 (by simp; omega), fun h => level 3#2 (by simp; omega)⟩

/-- Settles O39: the clamp bounds the value, and the threshold halves what is left over. -/
theorem ditherErrorIsBounded : Obligations.DitherErrorIsBounded := by
  intro p err
  obtain ⟨hlo, hhi⟩ := clamp_mem (show (0 : Int) ≤ 255 by decide) (p.toNat + asr err 4)
  refine ⟨hlo, hhi, ?_⟩
  change 0 ≤ ditherValue p err at hlo
  change ditherValue p err ≤ 255 at hhi
  rw [ditherError_eq]
  split_ifs <;> omega

end Sys2Proof.Machine
end

/-! PROOFS of the statements about the control unit (43_control.md): what the write of a command's word answers, what
a block that is as reset holds, and the theorems that settle the statements. -/

/-! ### NOP and CLR, and the write of their words -/

section
namespace Sys2Proof.Machine
open Sys2Proof.Machine.Claim

@[simp] theorem exec_nop (s : State) : exec .nop s = .next s := rfl

@[simp] theorem exec_clr (s : State) : exec .clr s = .next s.resetBlock := rfl

/-- The write of a command's word answers `ok` after what the command does to the state in which CMD holds the word
(10_state.md R22, 20_memory.md R63). -/
theorem step_commandWord {s u : State} {i : Instr} {rest : List HostTxn}
    (hs : Issues s (.regWrite 0x00 (encode i)) rest)
    (hu : exec i ((s.withPending rest).storeReg .cmd (encode i)) = .next u) : step s = .next (u.respond .ok) := by
  rw [step_of_pending hs, transact_commandWrite (decode_encode i), hu, respondAfter]

end Sys2Proof.Machine
end

/-! ### A block that is as reset -/

section
namespace Sys2Proof.Machine

theorem State.byte_of_block {s t : State} (h : s.block = t.block) (b : Buf) (k : Nat) : s.byte b k = t.byte b k := by
  rw [State.byte, State.byte, State.buf_of_block h]

/-- No byte of a block that is as reset has a value (10_state.md R39). -/
theorem State.byte_eq_none_of_block_eq_reset {t : State} (h : t.block = State.reset.block) (b : Buf) (k : Nat) :
    t.byte b k = none := by
  obtain ⟨-, -, -, -, hbyte⟩ := resetStateIsTheSpecs
  rw [State.byte_of_block h, hbyte]

end Sys2Proof.Machine
end

/-! ### The statements -/

section
namespace Sys2Proof.Machine
open Sys2Proof.Machine.Claim

/-- Settles O11: CLR replaces the block whatever it was, so the word in CMD is lost too, and the answer touches the
host's side alone. -/
theorem clrLeavesTheResetState : Obligations.ClrLeavesTheResetState := by
  have answered (s : State) : (s.resetBlock.respond .ok).block = State.reset.block :=
    (State.block_respond _ _).trans s.block_resetBlock
  refine ⟨fun s => ⟨s.resetBlock, exec_clr s, s.block_resetBlock, rfl, rfl, rfl⟩, fun s rest hs => ?_⟩
  exact ⟨_, step_commandWord (i := .clr) hs (exec_clr _), answered _, rfl, rfl, rfl, rfl,
    State.byte_eq_none_of_block_eq_reset (answered _)⟩

/-- Settles O12: the only change is the host's own store of the word 0x0000 in CMD. -/
theorem nopChangesNothingButCmd : Obligations.NopChangesNothingButCmd :=
  ⟨rfl, exec_nop, fun _ _ hs => ⟨_, step_commandWord (i := .nop) hs (exec_nop _), rfl⟩⟩

end Sys2Proof.Machine
end

/-! PROOFS of the statements about the errors (60_exceptions.md): what the write of an illegal word does, that every
state has a next one, which outcome a command can end with, and the theorems that settle the statements. -/

/-! ### The write of a word of no command -/

section
namespace Sys2Proof.Machine
open Sys2Proof.Machine.Claim

/-- The words of the commands are the nine of the opcode table (30_encoding.md R81). -/
theorem encode_mem_opcodeTable (i : Instr) :
    encode i ∈ [0x0000#16, 0x0100#16, 0x1000#16, 0x1100#16, 0x1200#16, 0x2100#16, 0x2200#16, 0x3100#16, 0x3200#16] := by
  cases i <;> decide

/-- A word of no command makes the error entry that invalidates nothing (60_exceptions.md R205). -/
theorem performWord_illegal {w : Word} (h : ∀ i, w ≠ encode i) (s : State) :
    performWord w s = .next (s.raise .nothing .illegalCommand) := by
  cases hd : decode w with
  | ok i => exact absurd (encode_of_decode hd) (h i)
  | error e => simp only [performWord, hd]

/-- The write of a word of no command stores it in CMD, makes that error entry and answers `ok` (20_memory.md R63,
60_exceptions.md R205). -/
theorem step_illegalWord {s : State} {w : Word} {rest : List HostTxn} (hs : Issues s (.regWrite 0x00 w) rest)
    (h : ∀ i, w ≠ encode i) :
    step s = .next ((((s.withPending rest).storeReg .cmd w).raise .nothing .illegalCommand).respond .ok) := by
  obtain ⟨u, hu, -, ht⟩ := transact_cmd w (s.withPending rest)
  cases (performWord_illegal h _).symm.trans hu
  exact (step_of_pending hs).trans ht

end Sys2Proof.Machine
end

/-! ### Every state has a next one -/

section
namespace Sys2Proof.Machine

/-- A step answers a next state: the same one where no transaction is to come, else what the transaction leaves
(60_exceptions.md R209). -/
theorem exists_step (s : State) : ∃ t, step s = .next t := by
  cases hp : s.pending with
  | nil => exact ⟨s, step_of_idle hp⟩
  | cons x rest =>
    obtain ⟨t, ht, -⟩ := transact_cases x (s.withPending rest)
    exact ⟨t, (step_of_pending hp).trans ht⟩

theorem exists_runsTo (k : Nat) (s : State) : ∃ t, RunsTo k s t := by
  induction k generalizing s with
  | zero => exact ⟨s, RunsTo.refl s⟩
  | succ k ih =>
    obtain ⟨t, ht⟩ := exists_step s
    obtain ⟨u, hu⟩ := ih t
    exact ⟨u, RunsTo.step ht hu⟩

end Sys2Proof.Machine
end

/-! ### The outcome of a command -/

section
namespace Sys2Proof.Machine

/-- OK after an error entry (60_exceptions.md R206). -/
theorem State.ok_raise (s : State) (g : OutputGroup) (e : ErrorCode) :
    Status.ok (s.raise g e).status = (e == .noError) := Status.ok_setOutcome _ e

/-- ERR after an error entry (60_exceptions.md R206). -/
theorem State.err_raise (s : State) (g : OutputGroup) (e : ErrorCode) :
    Status.err (s.raise g e).status = errorNumber e := Status.err_setOutcome _ e

/-- No command raises the code of success (60_exceptions.md R201, R202). -/
theorem ne_noError_of_mem_errorsOf {i : Instr} {e : ErrorCode} (h : e ∈ errorsOf i) : e ≠ .noError := by
  rintro rfl
  exact errorNumber_ne_zero h rfl

/-- A command but NOP and CLR that ends without error records that outcome (10_state.md R36). -/
theorem Completes.status_eq_setOutcome {i : Instr} {s t : State} (hn : i ≠ .nop) (hc : i ≠ .clr)
    (h : Completes i s t) : ∃ w, t.status = Status.setOutcome w .noError := by
  cases i <;> simp only [Completes] at h
  case nop => exact absurd rfl hn
  case clr => exact absurd rfl hc
  case frame | frameCfg | frameBat => obtain ⟨_, _, _, -, -, rfl⟩ := h; exact ⟨_, rfl⟩
  case decCfg | decBat => obtain ⟨_, -, rfl⟩ := h; exact ⟨_, rfl⟩
  case enc1 | enc2 => obtain ⟨rfl, -, -⟩ := h; exact ⟨_, rfl⟩

/-- A command but NOP and CLR ends with OK 1 and ERR 0, or is the error entry of one of its own errors
(60_exceptions.md R202, R206). -/
theorem exec_succeeds_or_raises {i : Instr} {s t : State} (hn : i ≠ .nop) (hc : i ≠ .clr)
    (h : exec i s = .next t) :
    (Status.ok t.status = true ∧ Status.err t.status = 0#4) ∨ ∃ e ∈ errorsOf i, t = s.raise (outputGroupOf i) e := by
  rcases exec_next_cases h with hraised | hdone
  · exact .inr hraised
  · obtain ⟨w, hw⟩ := hdone.status_eq_setOutcome hn hc
    exact .inl ⟨by rw [hw, Status.ok_setOutcome]; rfl, by rw [hw, Status.err_setOutcome]; rfl⟩

theorem outputGroupOf_framer : ∀ i ∈ [Instr.frame, .frameCfg, .frameBat], outputGroupOf i = .payload := by decide

/-- A framer command that ended with OK 0 made the error entry of its group (40_framer.md R103, 60_exceptions.md
R206). -/
theorem exec_framer_failed {i : Instr} (hi : i ∈ [Instr.frame, .frameCfg, .frameBat]) {s t : State}
    (h : exec i s = .next t) (hok : Status.ok t.status = false) : ∃ e, t = s.raise .payload e := by
  have hg := outputGroupOf_framer i hi
  have hn : i ≠ .nop := by rintro rfl; cases hg
  have hc : i ≠ .clr := by rintro rfl; cases hg
  rcases exec_succeeds_or_raises hn hc h with ⟨hsucc, -⟩ | ⟨e, -, ht⟩
  · exact absurd (hsucc.symm.trans hok) (by decide)
  · exact ⟨e, hg ▸ ht⟩

/-- A DEC command finds no layout of its own in an empty payload (41_decoder.md R126, R127). -/
theorem exec_dec_of_payLen_zero {d : Instr} (hd : d ∈ [Instr.decCfg, .decBat]) {s : State} (h : s.payLen = 0#16) :
    exec d s = .next (s.raise (outputGroupOf d) .lengthMismatch) := by
  cases d <;> simp at hd
  case decCfg => exact exec_decCfg_mismatch (by rw [h]; decide)
  case decBat => exact exec_decBat_mismatch (by rw [h]; decide)

end Sys2Proof.Machine
end

/-! ### The statements -/

section
namespace Sys2Proof.Machine
open Sys2Proof.Machine.Claim

/-- Settles O5: the error entry of an illegal word has no output to invalidate, so that it touches OK and ERR alone. -/
theorem illegalWordSetsCmdAndErrorFive : Obligations.IllegalWordSetsCmdAndErrorFive := by
  intro s w rest hs hw
  have hillegal : ∀ i, w ≠ encode i := fun i hi => hw (hi ▸ encode_mem_opcodeTable i)
  exact ⟨_, step_illegalWord hs hillegal, (Effect.raise (s := s) .nothing .illegalCommand).statusAfter rfl⟩

/-- Settles O7: a run goes on because each of its steps does. -/
theorem noStepAndNoRunEverStops : Obligations.NoStepAndNoRunEverStops := ⟨exists_step, exists_runsTo⟩

/-- Settles O42: what is not a success is the error entry of one of the command's own errors. -/
theorem commandsRaiseOnlyTheirOwnErrors : Obligations.CommandsRaiseOnlyTheirOwnErrors := by
  refine ⟨fun i s t h => ⟨?_, ?_, fun hn hc => ?_⟩, fun s t w rest hs hw h => ?_⟩
  · rintro rfl
    cases h
    rfl
  · rintro rfl
    cases h
    rfl
  · refine (exec_succeeds_or_raises hn hc h).imp_right ?_
    rintro ⟨e, he, rfl⟩
    exact ⟨by rw [State.ok_raise, beq_eq_false_iff_ne]; exact ne_noError_of_mem_errorsOf he,
      e, he, State.err_raise _ _ e⟩
  · cases (step_illegalWord hs hw).symm.trans h
    exact ⟨State.ok_raise _ .nothing .illegalCommand, State.err_raise _ .nothing .illegalCommand⟩

/-- Settles O46: the framer's error entry clears PAY_LEN, and no DEC command accepts an empty payload. -/
theorem failedFrameMakesTheNextDecodeFail : Obligations.FailedFrameMakesTheNextDecodeFail := by
  intro i d s t hi hd h hok
  obtain ⟨e, rfl⟩ := exec_framer_failed hi h hok
  exact ⟨rfl, _, exec_dec_of_payLen_zero hd rfl, State.ok_raise _ _ .lengthMismatch,
    congrArg BitVec.toNat (State.err_raise _ _ .lengthMismatch)⟩

end Sys2Proof.Machine
end
